-- ==== Sys2Proof/Word.lean ====
section
/-! DEFINITION. The word types of the block: 32-bit Q16.16 words, 16-bit samples and indices. -/

namespace Sys2Proof

/-- A 32-bit word: a command word, a scalar register or a Q16.16 value (00_scope.md R6, R9, R12). -/
abbrev Word := BitVec 32

/-- A 16-bit quantity: a native sample (00_scope.md R8), a cell index, a length or an `imm16` field
(30_encoding.md R80, R82). -/
abbrev Half := BitVec 16

end Sys2Proof
end

