-- ==== Sys2Proof/Syntax.lean ====
section
/-! DEFINITION. The command set: one constructor of `Instr` per row of the opcode map, 30_encoding.md R84. -/

namespace Sys2Proof

/-- The eight scalar registers (10_state.md R20, 30_encoding.md R83). -/
inductive Reg where
  | x0 | x1 | x2 | x3 | x4 | x5 | x6 | x7
  deriving DecidableEq, Repr

/-- The 23 commands of 30_encoding.md R84, with the operands their formats use (R81, R82). A CSR operand is the raw 16-bit
number: an unassigned one is encodable and is answered when the command runs (44_system.md R186, R187). -/
inductive Instr where
  | nop
  | tofix (rd : Reg) (imm : Half)
  | setlo (rd : Reg) (imm : Half)
  | fromfix (rd rs1 : Reg)
  | satadd (rd rs1 rs2 : Reg)
  | satsub (rd rs1 rs2 : Reg)
  | satmul (rd rs1 rs2 : Reg)
  | push (imm : Half)
  | ldraw (rd : Reg) (idx : Half)
  | straw (idx : Half) (rs1 : Reg)
  | ldsig (rd : Reg) (idx : Half)
  | stsig (idx : Half) (rs1 : Reg)
  | ldcand (rd : Reg) (k : Half)
  | grad (rd : Reg) (idx : Half)
  | prom (rd : Reg) (idx : Half)
  | conv
  | detect
  | select
  | find
  | csrr (rd : Reg) (csr : Half)
  | csrw (csr : Half) (rs1 : Reg)
  | cfgdef
  | out (rs1 : Reg)
  deriving DecidableEq, Repr

end Sys2Proof
end

