-- ==== Sys2Proof/WellFormed.lean ====
section
/-! DEFINITION. Which commands are well formed as syntax. -/

namespace Sys2Proof

/-- The check of 30_encoding.md R88 (3), the only one that depends on an operand and not on the state: `CSRR` names an
assigned CSR (0x0000 to 0x0009) and `CSRW` a writable one (0x0000 to 0x0003). Register numbers, immediates and unused
fields are in range by type. An ill-formed command still decodes and still runs: it raises BAD_CSR. -/
def Instr.wf : Instr → Bool
  | .csrr _ csr => decide (csr.toNat ≤ 0x0009)
  | .csrw csr _ => decide (csr.toNat ≤ 0x0003)
  | .nop => true
  | .tofix _ _ => true
  | .setlo _ _ => true
  | .fromfix _ _ => true
  | .satadd _ _ _ => true
  | .satsub _ _ _ => true
  | .satmul _ _ _ => true
  | .push _ => true
  | .ldraw _ _ => true
  | .straw _ _ => true
  | .ldsig _ _ => true
  | .stsig _ _ => true
  | .ldcand _ _ => true
  | .grad _ _ => true
  | .prom _ _ => true
  | .conv => true
  | .detect => true
  | .select => true
  | .find => true
  | .cfgdef => true
  | .out _ => true

end Sys2Proof
end

