-- ==== Sys2Proof/Decode.lean ====
section
/-! DEFINITION. The command encoding of 30_encoding.md: fields, formats, the opcode map, the decoder (total on every
32-bit word, rejecting by name) and after it the encoder. -/

namespace Sys2Proof

/-! ## Fields and formats -/

/-- The fields of a command word (30_encoding.md R80). -/
structure Fields where
  opcode : BitVec 6
  rd : BitVec 3
  rs1 : BitVec 3
  rs2 : BitVec 3
  z : BitVec 1
  imm16 : BitVec 16
  deriving DecidableEq, Repr

/-- The field positions of 30_encoding.md R80. -/
def fieldsOf (w : Word) : Fields where
  opcode := w.extractLsb' 26 6
  rd := w.extractLsb' 23 3
  rs1 := w.extractLsb' 20 3
  rs2 := w.extractLsb' 17 3
  z := w.extractLsb' 16 1
  imm16 := w.extractLsb' 0 16

/-- The word of 30_encoding.md R80, opcode << 26 | rd << 23 | rs1 << 20 | rs2 << 17 | z << 16 | imm16, as a sum of
disjoint fields. -/
def wordOf (f : Fields) : Word :=
  BitVec.ofNat 32 (f.opcode.toNat * 0x4000000 + f.rd.toNat * 0x800000 + f.rs1.toNat * 0x100000
    + f.rs2.toNat * 0x20000 + f.z.toNat * 0x10000 + f.imm16.toNat)

/-- The seven formats of 30_encoding.md R81. -/
inductive Format where
  | z | r3 | r2 | i | s | p | o
  deriving DecidableEq, Repr

/-- The must-be-zero column of 30_encoding.md R81: every field the format does not use, and bit 16, is zero. -/
def Format.unusedZero (fmt : Format) (f : Fields) : Bool :=
  f.z == 0 &&
  match fmt with
  | .z => f.rd == 0 && f.rs1 == 0 && f.rs2 == 0 && f.imm16 == 0
  | .r3 => f.imm16 == 0
  | .r2 => f.rs2 == 0 && f.imm16 == 0
  | .i => f.rs1 == 0 && f.rs2 == 0
  | .s => f.rd == 0 && f.rs2 == 0
  | .p => f.rd == 0 && f.rs1 == 0 && f.rs2 == 0
  | .o => f.rd == 0 && f.rs2 == 0 && f.imm16 == 0

/-- The register a 3-bit field names (30_encoding.md R83). -/
def Reg.ofBits (b : BitVec 3) : Reg :=
  match b.toNat with
  | 0 => .x0
  | 1 => .x1
  | 2 => .x2
  | 3 => .x3
  | 4 => .x4
  | 5 => .x5
  | 6 => .x6
  | _ => .x7

/-- The 3-bit field that names a register (30_encoding.md R83). -/
def Reg.bits : Reg → BitVec 3
  | .x0 => 0
  | .x1 => 1
  | .x2 => 2
  | .x3 => 3
  | .x4 => 4
  | .x5 => 5
  | .x6 => 6
  | .x7 => 7

/-! ## The opcode map -/

/-- The assigned operations, one per row of 30_encoding.md R84. -/
inductive Opcode where
  | nop | tofix | setlo | fromfix | satadd | satsub | satmul
  | push | ldraw | straw | ldsig | stsig | ldcand
  | grad | prom | conv | detect | select | find
  | csrr | csrw | cfgdef | out
  deriving DecidableEq, Repr

/-- The opcode column of 30_encoding.md R84. -/
def Opcode.bits : Opcode → BitVec 6
  | .nop => 0x00
  | .tofix => 0x01
  | .setlo => 0x02
  | .fromfix => 0x03
  | .satadd => 0x04
  | .satsub => 0x05
  | .satmul => 0x06
  | .push => 0x08
  | .ldraw => 0x09
  | .straw => 0x0A
  | .ldsig => 0x0B
  | .stsig => 0x0C
  | .ldcand => 0x0D
  | .grad => 0x10
  | .prom => 0x11
  | .conv => 0x12
  | .detect => 0x13
  | .select => 0x14
  | .find => 0x15
  | .csrr => 0x18
  | .csrw => 0x19
  | .cfgdef => 0x1A
  | .out => 0x1B

/-- The format column of 30_encoding.md R84. -/
def Opcode.format : Opcode → Format
  | .nop => .z
  | .tofix => .i
  | .setlo => .i
  | .fromfix => .r2
  | .satadd => .r3
  | .satsub => .r3
  | .satmul => .r3
  | .push => .p
  | .ldraw => .i
  | .straw => .s
  | .ldsig => .i
  | .stsig => .s
  | .ldcand => .i
  | .grad => .i
  | .prom => .i
  | .conv => .z
  | .detect => .z
  | .select => .z
  | .find => .z
  | .csrr => .i
  | .csrw => .s
  | .cfgdef => .z
  | .out => .o

/-- The 23 assigned operations. -/
def Opcode.all : List Opcode :=
  [.nop, .tofix, .setlo, .fromfix, .satadd, .satsub, .satmul, .push, .ldraw, .straw, .ldsig, .stsig, .ldcand,
   .grad, .prom, .conv, .detect, .select, .find, .csrr, .csrw, .cfgdef, .out]

/-- The operation an opcode field names; `none` for the unassigned values of 30_encoding.md R85. -/
def Opcode.ofBits (b : BitVec 6) : Option Opcode :=
  Opcode.all.find? fun o => o.bits == b

/-! ## The decoder -/

/-- Why a word is no command: the first two tests of 30_encoding.md R88. -/
inductive DecodeError where
  /-- The opcode is unassigned (R85). -/
  | illegalOpcode
  /-- The opcode is assigned and a bit its format requires to be zero is one (R86). -/
  | reservedField
  deriving DecidableEq, Repr

/-- The command an operation makes of its fields (30_encoding.md R82, R84). -/
def Opcode.instr (o : Opcode) (f : Fields) : Instr :=
  match o with
  | .nop => .nop
  | .tofix => .tofix (.ofBits f.rd) f.imm16
  | .setlo => .setlo (.ofBits f.rd) f.imm16
  | .fromfix => .fromfix (.ofBits f.rd) (.ofBits f.rs1)
  | .satadd => .satadd (.ofBits f.rd) (.ofBits f.rs1) (.ofBits f.rs2)
  | .satsub => .satsub (.ofBits f.rd) (.ofBits f.rs1) (.ofBits f.rs2)
  | .satmul => .satmul (.ofBits f.rd) (.ofBits f.rs1) (.ofBits f.rs2)
  | .push => .push f.imm16
  | .ldraw => .ldraw (.ofBits f.rd) f.imm16
  | .straw => .straw f.imm16 (.ofBits f.rs1)
  | .ldsig => .ldsig (.ofBits f.rd) f.imm16
  | .stsig => .stsig f.imm16 (.ofBits f.rs1)
  | .ldcand => .ldcand (.ofBits f.rd) f.imm16
  | .grad => .grad (.ofBits f.rd) f.imm16
  | .prom => .prom (.ofBits f.rd) f.imm16
  | .conv => .conv
  | .detect => .detect
  | .select => .select
  | .find => .find
  | .csrr => .csrr (.ofBits f.rd) f.imm16
  | .csrw => .csrw f.imm16 (.ofBits f.rs1)
  | .cfgdef => .cfgdef
  | .out => .out (.ofBits f.rs1)

/-- The decoder, in the order of 30_encoding.md R88: the opcode first, then the must-be-zero bits. Its tests (3) and (4),
on the CSR number and on the cell index, are made by the commands themselves (log entry 7). -/
def decode (w : Word) : Except DecodeError Instr :=
  match Opcode.ofBits (fieldsOf w).opcode with
  | none => .error .illegalOpcode
  | some o => if o.format.unusedZero (fieldsOf w) then .ok (o.instr (fieldsOf w)) else .error .reservedField

/-- The instruction the decoder reads from an instruction given as the opcode table numbers its bits. A command is one
32-bit value (20_memory.md R61, 30_encoding.md R80), so there is nothing to lay out; bits above `nbits` are zero. -/
def decodeTableWord (nbits w : Nat) : Option Instr :=
  match decode (BitVec.ofNat 32 (w % 2 ^ nbits)) with
  | .ok i => some i
  | .error _ => none

/-! ## The encoder -/

/-- The row of the opcode map a command belongs to (30_encoding.md R84). -/
def Instr.opcode : Instr → Opcode
  | .nop => .nop
  | .tofix _ _ => .tofix
  | .setlo _ _ => .setlo
  | .fromfix _ _ => .fromfix
  | .satadd _ _ _ => .satadd
  | .satsub _ _ _ => .satsub
  | .satmul _ _ _ => .satmul
  | .push _ => .push
  | .ldraw _ _ => .ldraw
  | .straw _ _ => .straw
  | .ldsig _ _ => .ldsig
  | .stsig _ _ => .stsig
  | .ldcand _ _ => .ldcand
  | .grad _ _ => .grad
  | .prom _ _ => .prom
  | .conv => .conv
  | .detect => .detect
  | .select => .select
  | .find => .find
  | .csrr _ _ => .csrr
  | .csrw _ _ => .csrw
  | .cfgdef => .cfgdef
  | .out _ => .out

/-- The fields of a command, unused ones zero (30_encoding.md R81, R84). -/
def Instr.fields : Instr → Fields
  | .nop => ⟨Opcode.nop.bits, 0, 0, 0, 0, 0⟩
  | .tofix rd imm => ⟨Opcode.tofix.bits, rd.bits, 0, 0, 0, imm⟩
  | .setlo rd imm => ⟨Opcode.setlo.bits, rd.bits, 0, 0, 0, imm⟩
  | .fromfix rd rs1 => ⟨Opcode.fromfix.bits, rd.bits, rs1.bits, 0, 0, 0⟩
  | .satadd rd rs1 rs2 => ⟨Opcode.satadd.bits, rd.bits, rs1.bits, rs2.bits, 0, 0⟩
  | .satsub rd rs1 rs2 => ⟨Opcode.satsub.bits, rd.bits, rs1.bits, rs2.bits, 0, 0⟩
  | .satmul rd rs1 rs2 => ⟨Opcode.satmul.bits, rd.bits, rs1.bits, rs2.bits, 0, 0⟩
  | .push imm => ⟨Opcode.push.bits, 0, 0, 0, 0, imm⟩
  | .ldraw rd idx => ⟨Opcode.ldraw.bits, rd.bits, 0, 0, 0, idx⟩
  | .straw idx rs1 => ⟨Opcode.straw.bits, 0, rs1.bits, 0, 0, idx⟩
  | .ldsig rd idx => ⟨Opcode.ldsig.bits, rd.bits, 0, 0, 0, idx⟩
  | .stsig idx rs1 => ⟨Opcode.stsig.bits, 0, rs1.bits, 0, 0, idx⟩
  | .ldcand rd k => ⟨Opcode.ldcand.bits, rd.bits, 0, 0, 0, k⟩
  | .grad rd idx => ⟨Opcode.grad.bits, rd.bits, 0, 0, 0, idx⟩
  | .prom rd idx => ⟨Opcode.prom.bits, rd.bits, 0, 0, 0, idx⟩
  | .conv => ⟨Opcode.conv.bits, 0, 0, 0, 0, 0⟩
  | .detect => ⟨Opcode.detect.bits, 0, 0, 0, 0, 0⟩
  | .select => ⟨Opcode.select.bits, 0, 0, 0, 0, 0⟩
  | .find => ⟨Opcode.find.bits, 0, 0, 0, 0, 0⟩
  | .csrr rd csr => ⟨Opcode.csrr.bits, rd.bits, 0, 0, 0, csr⟩
  | .csrw csr rs1 => ⟨Opcode.csrw.bits, 0, rs1.bits, 0, 0, csr⟩
  | .cfgdef => ⟨Opcode.cfgdef.bits, 0, 0, 0, 0, 0⟩
  | .out rs1 => ⟨Opcode.out.bits, 0, rs1.bits, 0, 0, 0⟩

/-- The command word of a command (30_encoding.md R80, R84). -/
def encode (i : Instr) : Word := wordOf i.fields

/-- The match and mask columns of 30_encoding.md R84, as printed: the words of row `o` are those `w` with
`w &&& mask = match` (R81). The decoder does not use them; statements compare it with them. -/
def Opcode.matchMask : Opcode → Word × Word
  | .nop => (0x00000000, 0xFFFFFFFF)
  | .tofix => (0x04000000, 0xFC7F0000)
  | .setlo => (0x08000000, 0xFC7F0000)
  | .fromfix => (0x0C000000, 0xFC0FFFFF)
  | .satadd => (0x10000000, 0xFC01FFFF)
  | .satsub => (0x14000000, 0xFC01FFFF)
  | .satmul => (0x18000000, 0xFC01FFFF)
  | .push => (0x20000000, 0xFFFF0000)
  | .ldraw => (0x24000000, 0xFC7F0000)
  | .straw => (0x28000000, 0xFF8F0000)
  | .ldsig => (0x2C000000, 0xFC7F0000)
  | .stsig => (0x30000000, 0xFF8F0000)
  | .ldcand => (0x34000000, 0xFC7F0000)
  | .grad => (0x40000000, 0xFC7F0000)
  | .prom => (0x44000000, 0xFC7F0000)
  | .conv => (0x48000000, 0xFFFFFFFF)
  | .detect => (0x4C000000, 0xFFFFFFFF)
  | .select => (0x50000000, 0xFFFFFFFF)
  | .find => (0x54000000, 0xFFFFFFFF)
  | .csrr => (0x60000000, 0xFC7F0000)
  | .csrw => (0x64000000, 0xFF8F0000)
  | .cfgdef => (0x68000000, 0xFFFFFFFF)
  | .out => (0x6C000000, 0xFF8FFFFF)

end Sys2Proof
end

