-- ==== Sys2Proof/Config.lean ====
section
/-! DEFINITION. What an implementation fixes: the two capacity parameters, the default thresholds, and the free
values that never-written cells return. -/

namespace Sys2Proof.Config

/-- The two OPEN parameters of 00_scope.md R7. They are held in 16 bits each, as `CAPS` shows them (10_state.md R36), so
the upper bound 65535 of R7 holds by type. DESIGN CHOICE, safe (log entry 1): they stand in the state as constants that
no step changes, so a statement about every state is a statement about every choice of them. -/
structure Params where
  /-- MAX_SIGNAL_LENGTH, the number of cells of `RAW` and of `SIG`. -/
  maxSignalLength : Half
  /-- MAX_PEAKS, the number of cells of `CAND`. -/
  maxPeaks : Half
  deriving DecidableEq, Repr

/-- The constraints of 00_scope.md R7: 3 <= MAX_SIGNAL_LENGTH and 1 <= MAX_PEAKS. -/
def Params.wf (p : Params) : Bool :=
  decide (3 ≤ p.maxSignalLength.toNat) && decide (1 ≤ p.maxPeaks.toNat)

/-- The reference configuration of 00_scope.md R7 (92_eei_decisions.md D10): 256 and 16. -/
def reference : Params := { maxSignalLength := 256, maxPeaks := 16 }

/-- DEFAULT_MIN_PROMINENCE, 1.0 (00_scope.md R8). -/
def defaultMinProminence : Word := 0x00010000

/-- DEFAULT_MIN_GRADIENT, 0.1 truncated (00_scope.md R8; log entry 8). -/
def defaultMinGradient : Word := 0x00001999

/-- DEFAULT_NOISE_FLOOR, 10.0 (00_scope.md R8). -/
def defaultNoiseFloor : Word := 0x000A0000

/-- FREE VALUE: what cell `i` of `RAW` holds after reset number `r` until it is written
(93_implementation_defined.md U1; log entry 4, safe). -/
opaque unwrittenRaw (r i : Nat) : Half

/-- FREE VALUE: what cell `i` of `SIG` holds after reset number `r` until it is written
(93_implementation_defined.md U1; log entry 4, safe). -/
opaque unwrittenSig (r i : Nat) : Word

/-- FREE VALUE: what cell `i` of `CAND` holds after reset number `r` until it is written
(93_implementation_defined.md U1; log entry 4, safe). -/
opaque unwrittenCand (r i : Nat) : Half

end Sys2Proof.Config
end

