-- ==== Sys2Proof/Machine/State.lean ====
section
/-! DEFINITION. The state of the block, as plain data, and its reset value (10_state.md, 70_reset_and_hazards.md R220). -/

namespace Sys2Proof.Machine

/-- The scalar registers `x0` to `x7`, 32 bits each (10_state.md R20). -/
structure Regs where
  x0 : Word
  x1 : Word
  x2 : Word
  x3 : Word
  x4 : Word
  x5 : Word
  x6 : Word
  x7 : Word
  deriving DecidableEq, Repr

/-- The values of `STATUS` (10_state.md R31, 60_exceptions.md R201). The codes 5 to 7 are never produced, so the field is
an enumeration (93_implementation_defined.md U5; log entry 10). -/
inductive Status where
  | none | ok | invalidInput | bufferTooSmall | noPeak
  deriving DecidableEq, Repr

/-- The values of `CMDERR` (10_state.md R35, 60_exceptions.md R206 to R209), an enumeration as U5 allows. -/
inductive CmdErr where
  | none | illegalOpcode | reservedField | badIndex | badCsr
  deriving DecidableEq, Repr

/-- The ten control and status registers (10_state.md R25). -/
inductive Csr where
  | len | minProm | minGrad | noiseFloor | status | bestIdx | bestProm | candCount | cmdErr | caps
  deriving DecidableEq, Repr

/-- One index space: the cells written since the last reset, each with its index, in rising order of index. An index with
no entry has not been written. A cell is read and written whole and has no bytes (20_memory.md R60; log entry 13). -/
abbrev Cells (width : Nat) := List (Nat × BitVec width)

/-- The three index spaces (10_state.md R38 to R40). -/
structure Memory where
  raw : Cells 16
  sig : Cells 32
  cand : Cells 16
  deriving DecidableEq, Repr

/-- What the host can do to the block: give it a command word, or apply reset (92_eei_decisions.md D2,
70_reset_and_hazards.md R220). -/
inductive HostInput where
  | command (w : Word)
  | reset
  deriving DecidableEq, Repr

/-- The architectural state (00_scope.md R15, 10_state.md), the two parameters, and the model's own `port` and `resets`. -/
structure State where
  /-- `x0` to `x7` (10_state.md R20). -/
  regs : Regs
  /-- `LEN` (R26). -/
  len : Half
  /-- `MIN_PROM` (R27). -/
  minProm : Word
  /-- `MIN_GRAD` (R28). -/
  minGrad : Word
  /-- `NOISE_FLOOR` (R29). -/
  noiseFloor : Word
  /-- `STATUS` (R31). -/
  status : Status
  /-- `BEST_IDX` (R32). -/
  bestIdx : Half
  /-- `BEST_PROM` (R33). -/
  bestProm : Word
  /-- `CAND_COUNT` (R34). -/
  candCount : Half
  /-- `CMDERR` (R35). -/
  cmdErr : CmdErr
  /-- MAX_SIGNAL_LENGTH and MAX_PEAKS, which `CAPS` shows (R36); no step changes them (log entry 1). -/
  params : Config.Params
  /-- `RAW`, `SIG` and `CAND` (R38 to R40). -/
  mem : Memory
  /-- `OUTQ`, oldest word first (R41). -/
  outq : List Word
  /-- MODEL'S OWN: the host's inputs not yet taken, the next one first (log entry 2). -/
  port : List HostInput
  /-- MODEL'S OWN: how many resets have been applied; it selects the free values of never-written cells (log entry 5). -/
  resets : Nat
  deriving DecidableEq, Repr

/-- Why the machine stops with a fault: never. "No command traps, hangs or leaves the block unable to take the next
command" (00_scope.md R16), so the type has no constructor. -/
inductive Fault where
  deriving DecidableEq, Repr

/-- Why a step is refused. -/
inductive Refusal where
  /-- Raised by `exec` for an instruction that has no meaning yet; no arm raises it. Safe: the model stops where the
  hardware would go on. -/
  | notModelled (mnemonic : String)
  deriving DecidableEq, Repr

/-- The block right after reset (70_reset_and_hazards.md R220, 10_state.md section 6), in the reference configuration, with
no command given yet. No cell has been written, so every cell reads a free value. -/
def State.reset : State where
  regs := { x0 := 0, x1 := 0, x2 := 0, x3 := 0, x4 := 0, x5 := 0, x6 := 0, x7 := 0 }
  len := 0
  minProm := Config.defaultMinProminence
  minGrad := Config.defaultMinGradient
  noiseFloor := Config.defaultNoiseFloor
  status := .none
  bestIdx := 0
  bestProm := 0
  candCount := 0
  cmdErr := .none
  params := Config.reference
  mem := { raw := [], sig := [], cand := [] }
  outq := []
  port := []
  resets := 0

end Sys2Proof.Machine
end

