-- ==== Sys2Proof/Machine/Ops.lean ====
section
/-! DEFINITION. The named operations over registers, index spaces, CSRs, the response queue and the host's inputs, and the
one operation that records a command error. -/

namespace Sys2Proof.Machine

/-! ## Scalar registers (10_state.md R20, R21) -/

/-- `x[i]` (00_scope.md R11). -/
def Regs.get (x : Regs) : Reg → Word
  | .x0 => x.x0
  | .x1 => x.x1
  | .x2 => x.x2
  | .x3 => x.x3
  | .x4 => x.x4
  | .x5 => x.x5
  | .x6 => x.x6
  | .x7 => x.x7

/-- `x[i] <- v` (00_scope.md R11). -/
def Regs.set (x : Regs) (r : Reg) (v : Word) : Regs :=
  match r with
  | .x0 => { x with x0 := v }
  | .x1 => { x with x1 := v }
  | .x2 => { x with x2 := v }
  | .x3 => { x with x3 := v }
  | .x4 => { x with x4 := v }
  | .x5 => { x with x5 := v }
  | .x6 => { x with x6 := v }
  | .x7 => { x with x7 := v }

/-- Read a scalar register. -/
def State.reg (s : State) (r : Reg) : Word := s.regs.get r

/-- Write a scalar register. -/
def State.setReg (s : State) (r : Reg) (v : Word) : State := { s with regs := s.regs.set r v }

/-! ## Cells of an index space (20_memory.md R60, R64) -/

/-- The cell at index `i`, or `none` where it has not been written since reset. -/
def Cells.get? {w : Nat} : Cells w → Nat → Option (BitVec w)
  | [], _ => none
  | (j, v) :: rest, i => if i < j then none else if i = j then some v else Cells.get? rest i

/-- Write the cell at index `i`, keeping the indices in rising order. -/
def Cells.set {w : Nat} : Cells w → Nat → BitVec w → Cells w
  | [], i, v => [(i, v)]
  | (j, u) :: rest, i, v =>
    if i < j then (i, v) :: (j, u) :: rest
    else if i = j then (i, v) :: rest
    else (j, u) :: Cells.set rest i v

/-- The canonical form: indices strictly rising. -/
def Cells.rising {w : Nat} : Cells w → Bool
  | [] => true
  | [_] => true
  | (i, _) :: (j, v) :: rest => decide (i < j) && Cells.rising ((j, v) :: rest)

/-- The canonical form of the three index spaces. An unlisted cell holds no value (it has not been written), so no entry
equals what an unlisted index holds, and equal memories are equal data (log entry 13). -/
def Memory.wf (m : Memory) : Bool := m.raw.rising && m.sig.rising && m.cand.rising

/-- `RAW[i]` (10_state.md R38); a never-written cell reads its free value (93_implementation_defined.md U1). -/
def State.rawAt (s : State) (i : Nat) : Half := (s.mem.raw.get? i).getD (Config.unwrittenRaw s.resets i)

/-- `SIG[i]` (10_state.md R39); a never-written cell reads its free value (U1). -/
def State.sigAt (s : State) (i : Nat) : Word := (s.mem.sig.get? i).getD (Config.unwrittenSig s.resets i)

/-- `CAND[i]` (10_state.md R40); a never-written cell reads its free value (U1). -/
def State.candAt (s : State) (i : Nat) : Half := (s.mem.cand.get? i).getD (Config.unwrittenCand s.resets i)

/-- `MemWrite(RAW, i, v)` (00_scope.md R11). -/
def State.writeRaw (s : State) (i : Nat) (v : Half) : State := { s with mem := { s.mem with raw := s.mem.raw.set i v } }

/-- `MemWrite(SIG, i, v)` (00_scope.md R11). -/
def State.writeSig (s : State) (i : Nat) (v : Word) : State := { s with mem := { s.mem with sig := s.mem.sig.set i v } }

/-! ## Lengths and capacities (10_state.md R26, R34; 00_scope.md R7) -/

/-- L, the signal length `CSR.LEN` as a number. -/
def State.length (s : State) : Nat := s.len.toNat

/-- MAX_SIGNAL_LENGTH as a number. -/
def State.capacity (s : State) : Nat := s.params.maxSignalLength.toNat

/-- MAX_PEAKS as a number. -/
def State.peakCapacity (s : State) : Nat := s.params.maxPeaks.toNat

/-- `CSR.CAND_COUNT` as a number. -/
def State.count (s : State) : Nat := s.candCount.toNat

/-! ## CSR writes made by commands -/

/-- `CSR.STATUS <- c` (10_state.md R31). -/
def State.setStatus (s : State) (c : Status) : State := { s with status := c }

/-- `CSR.LEN <- v` (10_state.md R26). -/
def State.setLen (s : State) (v : Half) : State := { s with len := v }

/-- `CSR.MIN_PROM <- v` (10_state.md R27). -/
def State.setMinProm (s : State) (v : Word) : State := { s with minProm := v }

/-- `CSR.MIN_GRAD <- v` (10_state.md R28). -/
def State.setMinGrad (s : State) (v : Word) : State := { s with minGrad := v }

/-- `CSR.NOISE_FLOOR <- v` (10_state.md R29). -/
def State.setNoiseFloor (s : State) (v : Word) : State := { s with noiseFloor := v }

/-- `CSR.BEST_IDX <- i ; CSR.BEST_PROM <- p` (10_state.md R32, R33). -/
def State.setBest (s : State) (i : Half) (p : Word) : State := { s with bestIdx := i, bestProm := p }

/-- `CSR.CAND_COUNT <- n` (10_state.md R34). -/
def State.setCandCount (s : State) (n : Nat) : State := { s with candCount := BitVec.ofNat 16 n }

/-- The three default constants into the three thresholds (44_system.md R188). -/
def State.setDefaultThresholds (s : State) : State :=
  { s with
    minProm := Config.defaultMinProminence
    minGrad := Config.defaultMinGradient
    noiseFloor := Config.defaultNoiseFloor }

/-! ## The response queue (10_state.md R41) -/

/-- `OUTQ <- OUTQ ++ [v]` (00_scope.md R11). -/
def State.sendOut (s : State) (v : Word) : State := { s with outq := s.outq ++ [v] }

/-! ## Command errors: the block's one kind of exception (60_exceptions.md R205) -/

/-- `raise CmdErr(code)`: the whole effect is `if CSR.CMDERR = 0 then CSR.CMDERR <- code` (60_exceptions.md R205). There is
no saved state, no handler and no return (R190, R210). -/
def State.raiseCmdErr (s : State) (code : CmdErr) : State :=
  match s.cmdErr with
  | .none => { s with cmdErr := code }
  | .illegalOpcode => s
  | .reservedField => s
  | .badIndex => s
  | .badCsr => s

/-- The command error of a word that does not decode (60_exceptions.md R206, R207). -/
def decodeCause : DecodeError → CmdErr
  | .illegalOpcode => .illegalOpcode
  | .reservedField => .reservedField

/-! ## Host inputs and reset (70_reset_and_hazards.md R220, R221) -/

/-- The state with the host's inputs replaced, as when the next one has been taken. -/
def State.withPort (s : State) (rest : List HostInput) : State := { s with port := rest }

/-- The reset input: every item takes its reset value; the cells become unspecified again, each with a free value of its
own; the two parameters and the host's later inputs stand (70_reset_and_hazards.md R220). -/
def State.applyReset (s : State) : State :=
  { State.reset with params := s.params, port := s.port, resets := s.resets + 1 }

end Sys2Proof.Machine
end

