-- ==== Sys2Proof/Machine/Flags.lean ====
section
/-! DEFINITION. What the block has in place of flags. There are no condition codes and saturation records nothing
(10_state.md R23); the recorded conditions are the codes of `STATUS` and `CMDERR` and the length tests that set them. -/

namespace Sys2Proof.Machine

/-- The 3-bit code of `STATUS` (10_state.md R31, 60_exceptions.md R201). -/
def Status.code : Status → BitVec 3
  | .none => 0
  | .ok => 1
  | .invalidInput => 2
  | .bufferTooSmall => 3
  | .noPeak => 4

/-- The 3-bit code of `CMDERR` (10_state.md R35, 60_exceptions.md R206 to R209). -/
def CmdErr.code : CmdErr → BitVec 3
  | .none => 0
  | .illegalOpcode => 1
  | .reservedField => 2
  | .badIndex => 3
  | .badCsr => 4

/-- L = 0 or L > MAX_SIGNAL_LENGTH: the INVALID_INPUT test of `CONV` and `FIND` (60_exceptions.md R201). -/
def State.lengthInvalid (s : State) : Bool := decide (s.length = 0) || decide (s.capacity < s.length)

/-- L > MAX_SIGNAL_LENGTH: the INVALID_INPUT test of `DETECT` (60_exceptions.md R201). -/
def State.lengthTooLarge (s : State) : Bool := decide (s.capacity < s.length)

/-- L < 3: the BUFFER_TOO_SMALL test of `DETECT` and `FIND` (60_exceptions.md R201; the minimum 3 is 00_scope.md R6). -/
def State.lengthTooSmall (s : State) : Bool := decide (s.length < 3)

end Sys2Proof.Machine
end

