-- ==== Sys2Proof/Machine/Operands.lean ====
section
/-! DEFINITION. The operand forms of 30_encoding.md R82: immediates, cell indices and CSR numbers. -/

namespace Sys2Proof.Machine

/-- `{hi, lo}`: two halves make a word (00_scope.md R9). -/
def joinHalves (hi lo : Half) : Word := BitVec.ofNat 32 (hi.toNat * 0x10000 + lo.toNat)

/-- `v[31:16]` (00_scope.md R9). -/
def highHalf (v : Word) : Half := v.extractLsb' 16 16

/-- `v[15:0]` (00_scope.md R9): what a narrow write keeps (92_eei_decisions.md D23). -/
def lowHalf (v : Word) : Half := v.extractLsb' 0 16

/-- `sext_32` of a native sample (00_scope.md R10). -/
def sext32 (v : Half) : Word := BitVec.ofInt 32 v.toInt

/-- `zext_32` of a field of up to 32 bits (00_scope.md R10). -/
def zext32 {w : Nat} (v : BitVec w) : Word := BitVec.ofNat 32 v.toNat

/-- The bound of `LDRAW`, `STRAW`, `LDSIG` and `STSIG` is the size of the space (20_memory.md R65). -/
def State.signalIndexOk (s : State) (idx : Half) : Bool := decide (idx.toNat < s.capacity)

/-- The bound of `LDCAND` is MAX_PEAKS (20_memory.md R65, 43_buffer_access.md R175). -/
def State.candIndexOk (s : State) (k : Half) : Bool := decide (k.toNat < s.peakCapacity)

/-- The index test of `GRAD` (41_gradient_detection.md R121): 2 <= L <= MAX_SIGNAL_LENGTH and idx < L. -/
def State.gradIndexOk (s : State) (idx : Half) : Bool :=
  decide (2 ≤ s.length) && decide (s.length ≤ s.capacity) && decide (idx.toNat < s.length)

/-- The CSR a number names; `none` for 0x000A to 0xFFFF (10_state.md R25). -/
def Csr.ofNum (n : Half) : Option Csr :=
  match n.toNat with
  | 0 => some .len
  | 1 => some .minProm
  | 2 => some .minGrad
  | 3 => some .noiseFloor
  | 4 => some .status
  | 5 => some .bestIdx
  | 6 => some .bestProm
  | 7 => some .candCount
  | 8 => some .cmdErr
  | 9 => some .caps
  | _ => none

/-- The number column of 10_state.md R25. -/
def Csr.num : Csr → Half
  | .len => 0x0000
  | .minProm => 0x0001
  | .minGrad => 0x0002
  | .noiseFloor => 0x0003
  | .status => 0x0004
  | .bestIdx => 0x0005
  | .bestProm => 0x0006
  | .candCount => 0x0007
  | .cmdErr => 0x0008
  | .caps => 0x0009

/-- `zext_32(CSR[csr])` (10_state.md R37, 44_system.md R186). `CAPS` is {MAX_PEAKS, MAX_SIGNAL_LENGTH} (R36). -/
def State.csr (s : State) : Csr → Word
  | .len => zext32 s.len
  | .minProm => s.minProm
  | .minGrad => s.minGrad
  | .noiseFloor => s.noiseFloor
  | .status => zext32 s.status.code
  | .bestIdx => zext32 s.bestIdx
  | .bestProm => s.bestProm
  | .candCount => zext32 s.candCount
  | .cmdErr => zext32 s.cmdErr.code
  | .caps => joinHalves s.params.maxPeaks s.params.maxSignalLength

/-- A `CSRW` write (10_state.md R37, 44_system.md R187): `none` for a read-only CSR; `LEN` keeps the low 16 bits. -/
def State.writeCsr (s : State) (c : Csr) (v : Word) : Option State :=
  match c with
  | .len => some (s.setLen (lowHalf v))
  | .minProm => some (s.setMinProm v)
  | .minGrad => some (s.setMinGrad v)
  | .noiseFloor => some (s.setNoiseFloor v)
  | .status => none
  | .bestIdx => none
  | .bestProm => none
  | .candCount => none
  | .cmdErr => none
  | .caps => none

end Sys2Proof.Machine
end

