-- ==== Sys2Proof/Machine/Buffer.lean ====
section
/-! DEFINITION. The buffer access commands (43_buffer_access.md). A bad index raises BAD_INDEX and does nothing else
(60_exceptions.md R205, R208). -/

namespace Sys2Proof.Machine

/-- `PUSH imm16` (R170). -/
def execPush (imm : Half) (s : State) : Host.Outcome State Fault Refusal :=
  if s.capacity ≤ s.length then .next (s.raiseCmdErr .badIndex)
  else .next ((s.writeRaw s.length imm).setLen (s.len + 1))

/-- `LDRAW rd, idx` (R171). -/
def execLdraw (rd : Reg) (idx : Half) (s : State) : Host.Outcome State Fault Refusal :=
  if s.signalIndexOk idx then .next (s.setReg rd (sext32 (s.rawAt idx.toNat))) else .next (s.raiseCmdErr .badIndex)

/-- `STRAW idx, rs1` (R172). -/
def execStraw (idx : Half) (rs1 : Reg) (s : State) : Host.Outcome State Fault Refusal :=
  if s.signalIndexOk idx then .next (s.writeRaw idx.toNat (lowHalf (s.reg rs1))) else .next (s.raiseCmdErr .badIndex)

/-- `LDSIG rd, idx` (R173). -/
def execLdsig (rd : Reg) (idx : Half) (s : State) : Host.Outcome State Fault Refusal :=
  if s.signalIndexOk idx then .next (s.setReg rd (s.sigAt idx.toNat)) else .next (s.raiseCmdErr .badIndex)

/-- `STSIG idx, rs1` (R174). -/
def execStsig (idx : Half) (rs1 : Reg) (s : State) : Host.Outcome State Fault Refusal :=
  if s.signalIndexOk idx then .next (s.writeSig idx.toNat (s.reg rs1)) else .next (s.raiseCmdErr .badIndex)

/-- `LDCAND rd, k` (R175). -/
def execLdcand (rd : Reg) (k : Half) (s : State) : Host.Outcome State Fault Refusal :=
  if s.candIndexOk k then .next (s.setReg rd (zext32 (s.candAt k.toNat))) else .next (s.raiseCmdErr .badIndex)

end Sys2Proof.Machine
end

