-- ==== Sys2Proof/Machine/Arith.lean ====
section
/-! DEFINITION. The arithmetic primitives of 00_scope.md R10 and 40_conversion_saturating_arith.md R100: exact integers,
narrowed once at the end. -/

namespace Sys2Proof.Machine

/-- `n >>a k`, floor(n / 2^k) (00_scope.md R10). -/
def asr (n : Int) (k : Nat) : Int := n / ((2 ^ k : Nat) : Int)

/-- `sat32(n)` (00_scope.md R10). -/
def sat32 (n : Int) : Word :=
  if n < -2147483648 then 0x80000000 else if 2147483647 < n then 0x7FFFFFFF else BitVec.ofInt 32 n

/-- `sat16(n)` (00_scope.md R10). -/
def sat16 (n : Int) : Half :=
  if n < -32768 then 0x8000 else if 32767 < n then 0x7FFF else BitVec.ofInt 16 n

/-- `tofix(s)` = wrap32(signed(s) << 16) (40_conversion_saturating_arith.md R100). -/
def tofix (v : Half) : Word := BitVec.ofInt 32 (v.toInt * 65536)

/-- `fromfix(a)` = sat16((A + 32768) >>a 16) (40_conversion_saturating_arith.md R100, R103). -/
def fromfix (a : Word) : Half := sat16 (asr (a.toInt + 32768) 16)

/-- `satadd32(a, b)` (40_conversion_saturating_arith.md R100). -/
def satadd32 (a b : Word) : Word := sat32 (a.toInt + b.toInt)

/-- `satsub32(a, b)` (40_conversion_saturating_arith.md R100). -/
def satsub32 (a b : Word) : Word := sat32 (a.toInt - b.toInt)

/-- `satmul32(a, b)` (40_conversion_saturating_arith.md R100): exact product, floor shift, clamp. -/
def satmul32 (a b : Word) : Word := sat32 (asr (a.toInt * b.toInt) 16)

/-- The halving of the central difference, an arithmetic right shift by 1 (41_gradient_detection.md R120). -/
def halve (a : Word) : Word := BitVec.ofInt 32 (asr a.toInt 1)

/-- The lesser of two words as signed numbers (00_scope.md R9, R10). -/
def signedMin (a b : Word) : Word := if a.toInt ≤ b.toInt then a else b

/-- The greater of two words as signed numbers (00_scope.md R9, R10). -/
def signedMax (a b : Word) : Word := if a.toInt ≤ b.toInt then b else a

end Sys2Proof.Machine
end

