-- ==== Sys2Proof/Machine/Conversion.lean ====
section
/-! DEFINITION. The conversion commands (40_conversion_saturating_arith.md section 2). -/

namespace Sys2Proof.Machine

/-- `TOFIX rd, imm16` (R101). -/
def execTofix (rd : Reg) (imm : Half) (s : State) : Host.Outcome State Fault Refusal :=
  .next (s.setReg rd (tofix imm))

/-- `SETLO rd, imm16` (R102): `x[rd] <- {x[rd][31:16], imm16}`. -/
def execSetlo (rd : Reg) (imm : Half) (s : State) : Host.Outcome State Fault Refusal :=
  .next (s.setReg rd (joinHalves (highHalf (s.reg rd)) imm))

/-- `FROMFIX rd, rs1` (R103): round half up, saturate, sign-extend. -/
def execFromfix (rd rs1 : Reg) (s : State) : Host.Outcome State Fault Refusal :=
  .next (s.setReg rd (sext32 (fromfix (s.reg rs1))))

end Sys2Proof.Machine
end

