-- ==== Sys2Proof/Machine/SatArith.lean ====
section
/-! DEFINITION. The saturating arithmetic commands (40_conversion_saturating_arith.md section 3). -/

namespace Sys2Proof.Machine

/-- `SATADD rd, rs1, rs2` (R105). -/
def execSatadd (rd rs1 rs2 : Reg) (s : State) : Host.Outcome State Fault Refusal :=
  .next (s.setReg rd (satadd32 (s.reg rs1) (s.reg rs2)))

/-- `SATSUB rd, rs1, rs2` (R106). -/
def execSatsub (rd rs1 rs2 : Reg) (s : State) : Host.Outcome State Fault Refusal :=
  .next (s.setReg rd (satsub32 (s.reg rs1) (s.reg rs2)))

/-- `SATMUL rd, rs1, rs2` (R107). -/
def execSatmul (rd rs1 rs2 : Reg) (s : State) : Host.Outcome State Fault Refusal :=
  .next (s.setReg rd (satmul32 (s.reg rs1) (s.reg rs2)))

end Sys2Proof.Machine
end

