-- ==== Sys2Proof/Machine/Detection.lean ====
section
/-! DEFINITION. Gradient, whole-buffer conversion and candidate detection (41_gradient_detection.md). The pure functions take
the signal as a function `S` from index to word and its length `L`. -/

namespace Sys2Proof.Machine

/-! ## The gradient function (R120) -/

/-- `gradient(i)` (R120): forward at the first index, backward at the last, else the halved central difference. -/
def gradient (S : Nat → Word) (L i : Nat) : Word :=
  if i = 0 then satsub32 (S 1) (S 0)
  else if i = L - 1 then satsub32 (S (L - 1)) (S (L - 2))
  else halve (satsub32 (S (i + 1)) (S (i - 1)))

/-- `GRAD rd, idx` (R121). -/
def execGrad (rd : Reg) (idx : Half) (s : State) : Host.Outcome State Fault Refusal :=
  if s.gradIndexOk idx then .next (s.setReg rd (gradient s.sigAt s.length idx.toNat))
  else .next (s.raiseCmdErr .badIndex)

/-! ## Whole-buffer conversion (R122) -/

/-- `for i from 0 to n - 1: MemWrite(SIG, i, tofix(RAW[i]))` (R122), on the cells of `SIG`. -/
def convertCells (R : Nat → Half) : Nat → Cells 32 → Cells 32
  | 0, sig => sig
  | n + 1, sig => (convertCells R n sig).set n (tofix (R n))

/-- The conversion stage of `CONV` and `FIND`: `RAW[0 .. L-1]` into `SIG[0 .. L-1]`. -/
def State.convert (s : State) : State :=
  { s with mem := { s.mem with sig := convertCells s.rawAt s.length s.mem.sig } }

/-- `CONV` (R122). -/
def execConv (s : State) : Host.Outcome State Fault Refusal :=
  if s.lengthInvalid then .next (s.setStatus .invalidInput) else .next (s.convert.setStatus .ok)

/-! ## Candidate detection (R123, R124) -/

/-- The two thresholds detection reads (R126 (a)). -/
structure Thresholds where
  noiseFloor : Word
  minGrad : Word
  deriving DecidableEq, Repr

/-- The thresholds of a state. -/
def State.thresholds (s : State) : Thresholds := { noiseFloor := s.noiseFloor, minGrad := s.minGrad }

/-- The four tests at an interior index, `(zc or lm) and nf and gm` (R123). The magnitude is exact (D15). -/
def acceptsIndex (t : Thresholds) (S : Nat → Word) (i : Nat) (prev cur : Word) : Bool :=
  let zc := decide (0 < prev.toInt) && decide (cur.toInt ≤ 0)
  let lm := decide ((S (i - 1)).toInt < (S i).toInt) && decide ((S (i + 1)).toInt < (S i).toInt)
  let nf := decide (t.noiseFloor.toInt < (S i).toInt)
  let gm := decide (t.minGrad.toInt ≤ (prev.toInt.natAbs : Int))
  (zc || lm) && nf && gm

/-- The loop of `detect()` (R124): `todo` indices from `i` on, with the previous gradient, the count `n` so far and the cells
of `CAND`. It stops early when `n` is MAX_PEAKS. -/
def detectLoop (t : Thresholds) (S : Nat → Word) (L maxPeaks : Nat) :
    (todo i : Nat) → (prev : Word) → (n : Nat) → Cells 16 → Nat × Cells 16
  | 0, _, _, n, cand => (n, cand)
  | todo + 1, i, prev, n, cand =>
    if n = maxPeaks then (n, cand)
    else
      let cur := gradient S L i
      if acceptsIndex t S i prev cur then
        detectLoop t S L maxPeaks todo (i + 1) cur (n + 1) (cand.set n (BitVec.ofNat 16 i))
      else detectLoop t S L maxPeaks todo (i + 1) cur n cand

/-- `detect()` (R124), for 3 <= L <= MAX_SIGNAL_LENGTH. -/
def State.detect (s : State) : State :=
  let r := detectLoop s.thresholds s.sigAt s.length s.peakCapacity (s.length - 2) 1
    (gradient s.sigAt s.length 0) 0 s.mem.cand
  { s with mem := { s.mem with cand := r.2 }, candCount := BitVec.ofNat 16 r.1 }

/-- `DETECT` (R125): CAND_COUNT is cleared before any test. -/
def execDetect (s : State) : Host.Outcome State Fault Refusal :=
  let s := s.setCandCount 0
  if s.lengthTooLarge then .next (s.setStatus .invalidInput)
  else if s.lengthTooSmall then .next (s.setStatus .bufferTooSmall)
  else .next (s.detect.setStatus .ok)

end Sys2Proof.Machine
end

