-- ==== Sys2Proof/Machine/Selection.lean ====
section
/-! DEFINITION. Prominence, selection and the find operation (42_prominence_selection.md). -/

namespace Sys2Proof.Machine

/-! ## Topological prominence (R140, R141) -/

/-- The left walk of R140: `for j from p - 1 down to 0`, stopping at a sample not below the peak. The first argument counts
the samples still to the left, so the sample read is the one just below it. -/
def walkLeft (S : Nat → Word) (peak : Word) : Nat → Word → Word
  | 0, lmin => lmin
  | j + 1, lmin => if peak.toInt ≤ (S j).toInt then lmin else walkLeft S peak j (signedMin lmin (S j))

/-- The right walk of R140: `todo` samples from index `j` up, stopping at a sample not below the peak. -/
def walkRight (S : Nat → Word) (peak : Word) : (todo j : Nat) → Word → Word
  | 0, _, rmin => rmin
  | todo + 1, j, rmin =>
    if peak.toInt ≤ (S j).toInt then rmin else walkRight S peak todo (j + 1) (signedMin rmin (S j))

/-- `prominence(p)` (R140): each side's minimum starts at the peak (D16), the reference is the greater of the two, and the
subtraction saturates (D12). -/
def prominence (S : Nat → Word) (L p : Nat) : Word :=
  let peak := S p
  let lmin := walkLeft S peak p peak
  let rmin := walkRight S peak (L - 1 - p) (p + 1) peak
  satsub32 peak (signedMax lmin rmin)

/-- `prom_or_zero(p)` (R141 (e)): 0 for an index outside the signal or an invalid length. -/
def State.promOrZero (s : State) (p : Nat) : Word :=
  if s.lengthInvalid || decide (s.length ≤ p) then 0 else prominence s.sigAt s.length p

/-- `PROM rd, idx` (R142). -/
def execProm (rd : Reg) (idx : Half) (s : State) : Host.Outcome State Fault Refusal :=
  .next (s.setReg rd (s.promOrZero idx.toNat))

/-! ## Selection (R143) -/

/-- The working registers of selection (R143, 10_state.md R44): the found bit, the best prominence and its index. -/
structure Best where
  found : Bool
  prom : Word
  idx : Half
  deriving DecidableEq, Repr

/-- `found <- false ; bestp <- 0 ; besti <- 0` (R143). -/
def Best.start : Best := { found := false, prom := 0, idx := 0 }

/-- One turn of the loop of R143: the threshold test is `>=`, the replacement test is strict. -/
def Best.consider (minProm : Word) (b : Best) (c : Half) (p : Word) : Best :=
  if decide (minProm.toInt ≤ p.toInt) && (!b.found || decide (b.prom.toInt < p.toInt)) then
    { found := true, prom := p, idx := c }
  else b

/-- `select()` (R143) over the candidates 0 to `n` - 1. -/
def State.selectFirst (s : State) : Nat → Best
  | 0 => Best.start
  | n + 1 => (s.selectFirst n).consider s.minProm (s.candAt n) (s.promOrZero (s.candAt n).toNat)

/-- What `SELECT` and `FIND` do with the outcome of `select()` (R144, R146). -/
def State.recordBest (s : State) (b : Best) : State :=
  if b.found then (s.setBest b.idx b.prom).setStatus .ok else s.setStatus .noPeak

/-- `SELECT` (R144): the result registers are cleared first. -/
def execSelect (s : State) : Host.Outcome State Fault Refusal :=
  let s := s.setBest 0 0
  .next (s.recordBest (s.selectFirst s.count))

/-! ## The find operation (R146) -/

/-- `FIND` (R146): validate, convert, detect, select. -/
def execFind (s : State) : Host.Outcome State Fault Refusal :=
  let s := s.setBest 0 0
  if s.lengthInvalid then .next (s.setStatus .invalidInput)
  else
    let s := s.convert.setCandCount 0
    if s.lengthTooSmall then .next (s.setStatus .bufferTooSmall)
    else
      let s := s.detect
      if s.count = 0 then .next (s.setStatus .noPeak)
      else .next (s.recordBest (s.selectFirst s.count))

end Sys2Proof.Machine
end

