-- ==== Sys2Proof/Machine/System.lean ====
section
/-! DEFINITION. CSR access, configuration defaults, output and no-op (44_system.md). -/

namespace Sys2Proof.Machine

/-- `NOP` (R185). -/
def execNop (s : State) : Host.Outcome State Fault Refusal := .next s

/-- `CSRR rd, csr` (R186): every assigned CSR is readable; an unassigned number raises BAD_CSR. -/
def execCsrr (rd : Reg) (csr : Half) (s : State) : Host.Outcome State Fault Refusal :=
  match Csr.ofNum csr with
  | some c => .next (s.setReg rd (s.csr c))
  | none => .next (s.raiseCmdErr .badCsr)

/-- `CSRW csr, rs1` (R187): a read-only or unassigned number raises BAD_CSR. -/
def execCsrw (csr : Half) (rs1 : Reg) (s : State) : Host.Outcome State Fault Refusal :=
  match (Csr.ofNum csr).bind fun c => s.writeCsr c (s.reg rs1) with
  | some t => .next t
  | none => .next (s.raiseCmdErr .badCsr)

/-- `CFGDEF` (R188). -/
def execCfgdef (s : State) : Host.Outcome State Fault Refusal := .next s.setDefaultThresholds

/-- `OUT rs1` (R189). -/
def execOut (rs1 : Reg) (s : State) : Host.Outcome State Fault Refusal := .next (s.sendOut (s.reg rs1))

end Sys2Proof.Machine
end

