-- ==== Sys2Proof/Machine/Dispatch.lean ====
section
/-! DEFINITION. One arm per constructor of `Instr`, each one direct call of its meaning. -/

namespace Sys2Proof.Machine

def exec (i : Instr) (s : State) : Host.Outcome State Fault Refusal :=
  match i with
  | .nop => Sys2Proof.Machine.execNop s
  | .tofix rd imm => Sys2Proof.Machine.execTofix rd imm s
  | .setlo rd imm => Sys2Proof.Machine.execSetlo rd imm s
  | .fromfix rd rs1 => Sys2Proof.Machine.execFromfix rd rs1 s
  | .satadd rd rs1 rs2 => Sys2Proof.Machine.execSatadd rd rs1 rs2 s
  | .satsub rd rs1 rs2 => Sys2Proof.Machine.execSatsub rd rs1 rs2 s
  | .satmul rd rs1 rs2 => Sys2Proof.Machine.execSatmul rd rs1 rs2 s
  | .push imm => Sys2Proof.Machine.execPush imm s
  | .ldraw rd idx => Sys2Proof.Machine.execLdraw rd idx s
  | .straw idx rs1 => Sys2Proof.Machine.execStraw idx rs1 s
  | .ldsig rd idx => Sys2Proof.Machine.execLdsig rd idx s
  | .stsig idx rs1 => Sys2Proof.Machine.execStsig idx rs1 s
  | .ldcand rd k => Sys2Proof.Machine.execLdcand rd k s
  | .grad rd idx => Sys2Proof.Machine.execGrad rd idx s
  | .prom rd idx => Sys2Proof.Machine.execProm rd idx s
  | .conv => Sys2Proof.Machine.execConv s
  | .detect => Sys2Proof.Machine.execDetect s
  | .select => Sys2Proof.Machine.execSelect s
  | .find => Sys2Proof.Machine.execFind s
  | .csrr rd csr => Sys2Proof.Machine.execCsrr rd csr s
  | .csrw csr rs1 => Sys2Proof.Machine.execCsrw csr rs1 s
  | .cfgdef => Sys2Proof.Machine.execCfgdef s
  | .out rs1 => Sys2Proof.Machine.execOut rs1 s

end Sys2Proof.Machine
end

