-- ==== Sys2Proof/Machine/Step.lean ====
section
/-! DEFINITION. One step: the block takes the host's next input. -/

namespace Sys2Proof.Machine

/-- One step takes the next host input. A command word is decoded and run whole (20_memory.md R67), or records its command
error (60_exceptions.md R205); the reset input resets (70_reset_and_hazards.md R220); with no input the block waits,
unchanged (log entry 3). -/
def step (s : State) : Host.Outcome State Fault Refusal :=
  match s.port with
  | [] => .next s
  | .reset :: rest => .next (s.withPort rest).applyReset
  | .command w :: rest =>
    match decode w with
    | .ok i => exec i (s.withPort rest)
    | .error e => .next ((s.withPort rest).raiseCmdErr (decodeCause e))

/-- The state with one command word given by the host ahead of the others, so that the very next step takes it (log
entry 2). -/
def State.withFetchWord (s : State) (nbits w : Nat) : State :=
  s.withPort (.command (BitVec.ofNat 32 (w % 2 ^ nbits)) :: s.port)

end Sys2Proof.Machine
end

