-- ==== Sys2Proof/Safety.lean ====
section
/-! DEFINITION. The terms statements are made in: what a command may touch, what a command error does, what a signal's side
minima are, and what must hold of every reachable state. -/

namespace Sys2Proof.Machine

/-! ## Frames -/

/-- What a command may change: the listed registers and CSRs, the cells the three predicates hold of, and `OUTQ` if the flag
says so. -/
structure Touches where
  regs : List Reg := []
  csrs : List Csr := []
  raw : Nat → Prop := fun _ => False
  sig : Nat → Prop := fun _ => False
  cand : Nat → Prop := fun _ => False
  outq : Bool := false

/-- From `s` to `t` nothing has changed but what `w` lists. Every register, every CSR (as `CSRR` reads it), every cell of the
three index spaces (as the commands read it) and `OUTQ` are compared; so are the two parameters and the model's own
`port` and `resets`, which no command changes. -/
def Unchanged (w : Touches) (s t : State) : Prop :=
  (∀ r, r ∉ w.regs → t.reg r = s.reg r) ∧
  (∀ c, c ∉ w.csrs → t.csr c = s.csr c) ∧
  (∀ i, ¬ w.raw i → t.rawAt i = s.rawAt i) ∧
  (∀ i, ¬ w.sig i → t.sigAt i = s.sigAt i) ∧
  (∀ i, ¬ w.cand i → t.candAt i = s.candAt i) ∧
  (w.outq = false → t.outq = s.outq) ∧
  t.params = s.params ∧ t.port = s.port ∧ t.resets = s.resets

/-- The whole effect of a command error (60_exceptions.md R205): `CMDERR` takes the code if it held none, and nothing else
changes. -/
def RaisesOnly (code : CmdErr) (s t : State) : Prop :=
  t.cmdErr = (if s.cmdErr = .none then code else s.cmdErr) ∧ Unchanged { csrs := [.cmdErr] } s t

/-- The values of 10_state.md section 6 that reset gives to the registers, the CSRs and `OUTQ`. -/
def HoldsResetValues (t : State) : Prop :=
  (∀ r, t.reg r = 0) ∧
  t.csr .len = 0 ∧ t.csr .minProm = 0x00010000 ∧ t.csr .minGrad = 0x00001999 ∧ t.csr .noiseFloor = 0x000A0000 ∧
  t.csr .status = 0 ∧ t.csr .bestIdx = 0 ∧ t.csr .bestProm = 0 ∧ t.csr .candCount = 0 ∧ t.csr .cmdErr = 0 ∧
  t.outq = []

/-! ## Encoding and operands -/

/-- `n` is the one word that decodes to `i`. -/
def OnlyWord (i : Instr) (n : Nat) : Prop := ∀ w : Word, decode w = .ok i ↔ w.toNat = n

/-- The register a command writes, its field `rd` (10_state.md R21). -/
def destinationOf : Instr → Option Reg
  | .tofix rd _ => some rd
  | .setlo rd _ => some rd
  | .fromfix rd _ => some rd
  | .satadd rd _ _ => some rd
  | .satsub rd _ _ => some rd
  | .satmul rd _ _ => some rd
  | .grad rd _ => some rd
  | .prom rd _ => some rd
  | .ldraw rd _ => some rd
  | .ldsig rd _ => some rd
  | .ldcand rd _ => some rd
  | .csrr rd _ => some rd
  | .nop => none
  | .push _ => none
  | .straw _ _ => none
  | .stsig _ _ => none
  | .conv => none
  | .detect => none
  | .select => none
  | .find => none
  | .csrw _ _ => none
  | .cfgdef => none
  | .out _ => none

/-- The registers a command reads: `rs1`, `rs2`, and `rd` for `SETLO` (10_state.md R21). -/
def sourcesOf : Instr → List Reg
  | .fromfix _ rs1 => [rs1]
  | .satadd _ rs1 rs2 => [rs1, rs2]
  | .satsub _ rs1 rs2 => [rs1, rs2]
  | .satmul _ rs1 rs2 => [rs1, rs2]
  | .straw _ rs1 => [rs1]
  | .stsig _ rs1 => [rs1]
  | .csrw _ rs1 => [rs1]
  | .out rs1 => [rs1]
  | .setlo rd _ => [rd]
  | .tofix _ _ => []
  | .grad _ _ => []
  | .prom _ _ => []
  | .ldraw _ _ => []
  | .ldsig _ _ => []
  | .ldcand _ _ => []
  | .csrr _ _ => []
  | .nop => []
  | .push _ => []
  | .conv => []
  | .detect => []
  | .select => []
  | .find => []
  | .cfgdef => []

/-! ## Integers -/

/-- The nearest 32-bit signed value (00_scope.md R10). -/
def clamp32 (n : Int) : Int := max (-2147483648) (min 2147483647 n)

/-! ## Signals, as integers (41_gradient_detection.md, 42_prominence_selection.md) -/

/-- S[i], signed(`SIG[i]`). -/
def State.sample (s : State) (i : Nat) : Int := (s.sigAt i).toInt

/-- The gradient of R120 as an integer, for 0 <= i < L. -/
def gradientValue (S : Nat → Int) (L i : Nat) : Int :=
  if i = 0 then clamp32 (S 1 - S 0)
  else if i = L - 1 then clamp32 (S (L - 1) - S (L - 2))
  else clamp32 (S (i + 1) - S (i - 1)) / 2

/-- Index `i` passes the tests of R123 under the given noise floor and minimum gradient. -/
def IsCandidate (noiseFloor minGrad : Int) (S : Nat → Int) (L i : Nat) : Prop :=
  ((0 < gradientValue S L (i - 1) ∧ gradientValue S L i ≤ 0) ∨ (S (i - 1) < S i ∧ S (i + 1) < S i)) ∧
  noiseFloor < S i ∧ minGrad ≤ |gradientValue S L (i - 1)|

/-- `cs` lists, in ascending order, every interior index that passes the tests of R123 (R124, before any truncation). -/
def IsCandidateList (noiseFloor minGrad : Int) (S : Nat → Int) (L : Nat) (cs : List Nat) : Prop :=
  cs.Pairwise (· < ·) ∧ ∀ i, i ∈ cs ↔ 1 ≤ i ∧ i + 2 ≤ L ∧ IsCandidate noiseFloor minGrad S L i

/-- `m` is the least of S[a], ..., S[b]. -/
def IsMinimum (S : Nat → Int) (a b : Nat) (m : Int) : Prop :=
  (∃ j, a ≤ j ∧ j ≤ b ∧ S j = m) ∧ ∀ j, a ≤ j → j ≤ b → m ≤ S j

/-- [a, p] is the left side of `p`: every sample before `p` in it is below the peak, and it stops at the signal's start or
just after a sample not below the peak (R140). -/
def IsLeftSide (S : Nat → Int) (p a : Nat) : Prop :=
  a ≤ p ∧ (∀ j, a ≤ j → j < p → S j < S p) ∧ (a = 0 ∨ S p ≤ S (a - 1))

/-- [p, b] is the right side of `p` in a signal of length `L` (R140). -/
def IsRightSide (S : Nat → Int) (L p b : Nat) : Prop :=
  p ≤ b ∧ b < L ∧ (∀ j, p < j → j ≤ b → S j < S p) ∧ (b + 1 = L ∨ S p ≤ S (b + 1))

/-- `v` is the prominence of index `p` (R140): the peak minus the greater of the two side minima, clamped. -/
def IsProminence (S : Nat → Int) (L p : Nat) (v : Int) : Prop :=
  ∃ a b lmin rmin, IsLeftSide S p a ∧ IsRightSide S L p b ∧ IsMinimum S a p lmin ∧ IsMinimum S p b rmin ∧
    v = clamp32 (S p - max lmin rmin)

/-! ## What holds of every reachable state -/

/-- The memory is in canonical form and lists no cell outside its space (20_memory.md R65). -/
def MemoryInv (s : State) : Prop :=
  s.mem.wf = true ∧
  (∀ i, (s.mem.raw.get? i).isSome = true → i < s.capacity) ∧
  (∀ i, (s.mem.sig.get? i).isSome = true → i < s.capacity) ∧
  (∀ i, (s.mem.cand.get? i).isSome = true → i < s.peakCapacity)

/-- The candidate list is as detection leaves it (10_state.md R34, R40): at most MAX_PEAKS entries, each one written, an
interior index of some admissible length, in strictly ascending order. -/
def CandidateInv (s : State) : Prop :=
  s.count ≤ s.peakCapacity ∧
  (∀ k, k < s.count → (s.mem.cand.get? k).isSome = true ∧ 1 ≤ (s.candAt k).toNat ∧
    (s.candAt k).toNat + 2 ≤ s.capacity) ∧
  (∀ j k, j < k → k < s.count → (s.candAt j).toNat < (s.candAt k).toNat)

/-- The result registers are as the commands leave them (10_state.md R31 to R33, 42_prominence_selection.md R141): the
prominence is never negative, the index is 0 or an interior one, and both are 0 while `STATUS` is NONE or NO_PEAK. -/
def ResultInv (s : State) : Prop :=
  0 ≤ s.bestProm.toInt ∧
  (s.bestIdx = 0 ∨ (1 ≤ s.bestIdx.toNat ∧ s.bestIdx.toNat + 2 ≤ s.capacity)) ∧
  (s.status = .noPeak → s.bestIdx = 0 ∧ s.bestProm = 0) ∧
  (s.status = .none → s.bestIdx = 0 ∧ s.bestProm = 0 ∧ s.count = 0)

/-- The state a run of inputs ends in (00_scope.md R18): one step an input. -/
def runInputs (s : State) (inputs : List HostInput) : Host.Outcome State Fault Refusal :=
  Sys2Proof.core.run inputs.length (s.withPort inputs)

end Sys2Proof.Machine
end

