-- ==== Sys2Proof/Certificates/Slice0/Obligations.lean ====
section
/-! DEFINITION. The statements for the provers. Each docstring names the rule of the spec it states. -/

open Sys2Proof Sys2Proof.Machine

/-! ## Encoding -/

/-- 30_encoding.md R80 to R84: decoding the word of a command gives the command, for every command and every operand. -/
def Obligations.DecodeUndoesEncode : Prop := ∀ i : Instr, decode (encode i) = .ok i

/-- 30_encoding.md R80, R81, R89: a word that decodes is the word of the command it decodes to; no bit is dropped. -/
def Obligations.EncodeUndoesDecode : Prop := ∀ (w : Word) (i : Instr), decode w = .ok i → encode i = w

/-- 30_encoding.md R81, R84: a word decodes to a command of a row exactly when `word & mask == match` for that row. -/
def Obligations.DecodeAcceptsExactlyTheTableRows : Prop :=
  ∀ (w : Word) (o : Opcode), w &&& o.matchMask.2 = o.matchMask.1 ↔ ∃ i, decode w = .ok i ∧ i.opcode = o

/-- A few words of 95_test_vectors.md, one of each format, and the two special words of 30_encoding.md R87. -/
def Obligations.DecodesTheSpecsWords : Prop :=
  decode 0x00000000 = .ok .nop ∧ decode 0x09001999 = .ok (.setlo .x2 0x1999) ∧
  decode 0x0E300000 = .ok (.fromfix .x4 .x3) ∧ decode 0x11940000 = .ok (.satadd .x3 .x1 .x2) ∧
  decode 0x2000FFFB = .ok (.push 0xFFFB) ∧ decode 0x28100004 = .ok (.straw 4 .x1) ∧
  decode 0x43000003 = .ok (.grad .x6 3) ∧ decode 0x54000000 = .ok .find ∧ decode 0x64100001 = .ok (.csrw 1 .x1) ∧
  decode 0x6C100000 = .ok (.out .x1) ∧ decode 0xFFFFFFFF = .error .illegalOpcode ∧
  decode 0x00000001 = .error .reservedField

/-! ## The step -/

/-- The command word the host gives next is run: a step at a word that decodes is `exec` of the command, on the state with
that word taken from the port. The port is the model's own field (log entry 2). -/
def Obligations.StepRunsTheDecodedCommand : Prop :=
  ∀ (s : State) (w : Word) (rest : List HostInput) (i : Instr),
    s.port = .command w :: rest → decode w = .ok i → step s = exec i (s.withPort rest)

/-- 30_encoding.md R85 and 60_exceptions.md R206: a word with an unassigned opcode raises code 1 and does nothing else. -/
def Obligations.UnassignedOpcodeRaisesIllegalOpcode : Prop :=
  ∀ (s : State) (w : Word) (rest : List HostInput), s.port = .command w :: rest →
    (w.toNat / 0x4000000 = 0x07 ∨ w.toNat / 0x4000000 = 0x0E ∨ w.toNat / 0x4000000 = 0x0F ∨
      w.toNat / 0x4000000 = 0x16 ∨ w.toNat / 0x4000000 = 0x17 ∨ 0x1C ≤ w.toNat / 0x4000000) →
    ∃ t, step s = .next t ∧ RaisesOnly .illegalOpcode (s.withPort rest) t

/-- 30_encoding.md R86 and 60_exceptions.md R207: a word with the opcode of a row and a non-zero must-be-zero bit of that row
raises code 2 and does nothing else. -/
def Obligations.ReservedBitRaisesReservedField : Prop :=
  ∀ (s : State) (w : Word) (rest : List HostInput) (o : Opcode), s.port = .command w :: rest →
    w &&& 0xFC000000 = o.matchMask.1 → w &&& o.matchMask.2 ≠ o.matchMask.1 →
    ∃ t, step s = .next t ∧ RaisesOnly .reservedField (s.withPort rest) t

/-- 00_scope.md R16, 60_exceptions.md R210: no step traps or hangs, and each takes exactly the next input. That a step with
no input leaves the state as it is, is the model's choice (log entry 3) and is not stated here. -/
def Obligations.EveryStepCompletesAndTakesOneInput : Prop :=
  ∀ s : State, ∃ t, step s = .next t ∧ t.port = s.port.tail

/-- 20_memory.md R67: a command takes effect before any of the next is read, so a step does not depend on later inputs. -/
def Obligations.StepIgnoresLaterInputs : Prop :=
  ∀ (s t : State) (x : HostInput) (rest rest' : List HostInput),
    step (s.withPort (x :: rest)) = .next t → step (s.withPort (x :: rest')) = .next (t.withPort rest')

/-- 00_scope.md R18, 70_reset_and_hazards.md R228: every finite run of inputs ends, with every input taken. -/
def Obligations.EveryRunCompletes : Prop :=
  ∀ (s : State) (inputs : List HostInput), ∃ t, runInputs s inputs = .next t ∧ t.port = []

/-- 10_state.md R22 with section 6, 70_reset_and_hazards.md R220: the reset state holds the reset values of the registers, the
CSRs and `OUTQ`, and so does the state the reset input leaves, whatever the state before it; `CAPS` is constant. -/
def Obligations.ResetGivesTheResetValues : Prop :=
  HoldsResetValues State.reset ∧
  ∀ (s : State) (rest : List HostInput), s.port = .reset :: rest →
    ∃ t, step s = .next t ∧ HoldsResetValues t ∧ t.csr .caps = s.csr .caps ∧ t.port = rest

/-- 93_implementation_defined.md U1, in the model's form (log entries 4 and 5): after the reset input every cell reads a free
value of that reset, whatever it held before. -/
def Obligations.ResetForgetsEveryCell : Prop :=
  ∀ (s : State) (rest : List HostInput), s.port = .reset :: rest →
    ∃ t, step s = .next t ∧ t.resets = s.resets + 1 ∧ ∀ i, t.rawAt i = Config.unwrittenRaw (s.resets + 1) i ∧
      t.sigAt i = Config.unwrittenSig (s.resets + 1) i ∧ t.candAt i = Config.unwrittenCand (s.resets + 1) i

/-- 70_reset_and_hazards.md R221, by the model's reading (log entry 6): what a reset leaves does not depend on whether the
command before it ran or was abandoned. -/
def Obligations.ResetAbandonsTheCommandBeforeIt : Prop :=
  ∀ (s t : State) (w : Word) (rest : List HostInput),
    step (s.withPort (.command w :: .reset :: rest)) = .next t → step t = step (s.withPort (.reset :: rest))

/-! ## Conversion and saturating arithmetic -/

/-- 40_conversion_saturating_arith.md R101. -/
def Obligations.TofixScalesTheSample : Prop :=
  ∀ (rd : Reg) (imm : Half),
    OnlyWord (.tofix rd imm) (0x04000000 + rd.bits.toNat * 0x800000 + imm.toNat) ∧
    ∀ s : State, ∃ t, exec (.tofix rd imm) s = .next t ∧
      (t.reg rd).toInt = 65536 * imm.toInt ∧ Unchanged { regs := [rd] } s t

/-- 40_conversion_saturating_arith.md R102. -/
def Obligations.SetloReplacesTheFraction : Prop :=
  ∀ (rd : Reg) (imm : Half),
    OnlyWord (.setlo rd imm) (0x08000000 + rd.bits.toNat * 0x800000 + imm.toNat) ∧
    ∀ s : State, ∃ t, exec (.setlo rd imm) s = .next t ∧
      (t.reg rd).toNat = (s.reg rd).toNat / 65536 * 65536 + imm.toNat ∧ Unchanged { regs := [rd] } s t

/-- 40_conversion_saturating_arith.md R103: round half up, clamp to the 16-bit range, sign-extend. -/
def Obligations.FromfixRoundsHalfUpAndSaturates : Prop :=
  ∀ rd rs1 : Reg,
    OnlyWord (.fromfix rd rs1) (0x0C000000 + rd.bits.toNat * 0x800000 + rs1.bits.toNat * 0x100000) ∧
    ∀ s : State, ∃ t, exec (.fromfix rd rs1) s = .next t ∧
      (t.reg rd).toInt = max (-32768) (min 32767 (((s.reg rs1).toInt + 32768) / 65536)) ∧
      Unchanged { regs := [rd] } s t

/-- 40_conversion_saturating_arith.md R104, "fromfix(tofix(s)) = s for every 16-bit s", which the spec marks as derived: `TOFIX`
then `FROMFIX` gives the sample back. -/
def Obligations.FromfixUndoesTofix : Prop :=
  ∀ (rd rd' : Reg) (v : Half) (s : State), ∃ t u, exec (.tofix rd v) s = .next t ∧
    exec (.fromfix rd' rd) t = .next u ∧ (u.reg rd').toInt = v.toInt

/-- 30_encoding.md R91: `TOFIX` then `SETLO` builds any word, and `TOFIX` alone one whose low half is zero. -/
def Obligations.TofixThenSetloBuildsAnyWord : Prop :=
  ∀ (rd : Reg) (v : Word) (s : State), ∃ t u, exec (.tofix rd (v.extractLsb' 16 16)) s = .next t ∧
    exec (.setlo rd (v.extractLsb' 0 16)) t = .next u ∧ u.reg rd = v ∧
    (v.extractLsb' 0 16 = 0 → t.reg rd = v) ∧ Unchanged { regs := [rd] } s u

/-- 40_conversion_saturating_arith.md R105: the exact sum, clamped. -/
def Obligations.SataddClampsTheExactSum : Prop :=
  ∀ rd rs1 rs2 : Reg,
    OnlyWord (.satadd rd rs1 rs2)
      (0x10000000 + rd.bits.toNat * 0x800000 + rs1.bits.toNat * 0x100000 + rs2.bits.toNat * 0x20000) ∧
    ∀ s : State, ∃ t, exec (.satadd rd rs1 rs2) s = .next t ∧
      (t.reg rd).toInt = clamp32 ((s.reg rs1).toInt + (s.reg rs2).toInt) ∧ Unchanged { regs := [rd] } s t

/-- 40_conversion_saturating_arith.md R106: the exact difference, clamped. -/
def Obligations.SatsubClampsTheExactDifference : Prop :=
  ∀ rd rs1 rs2 : Reg,
    OnlyWord (.satsub rd rs1 rs2)
      (0x14000000 + rd.bits.toNat * 0x800000 + rs1.bits.toNat * 0x100000 + rs2.bits.toNat * 0x20000) ∧
    ∀ s : State, ∃ t, exec (.satsub rd rs1 rs2) s = .next t ∧
      (t.reg rd).toInt = clamp32 ((s.reg rs1).toInt - (s.reg rs2).toInt) ∧ Unchanged { regs := [rd] } s t

/-- 40_conversion_saturating_arith.md R107: the exact product over 2^16, rounded down, clamped. -/
def Obligations.SatmulClampsTheFlooredProduct : Prop :=
  ∀ rd rs1 rs2 : Reg,
    OnlyWord (.satmul rd rs1 rs2)
      (0x18000000 + rd.bits.toNat * 0x800000 + rs1.bits.toNat * 0x100000 + rs2.bits.toNat * 0x20000) ∧
    ∀ s : State, ∃ t, exec (.satmul rd rs1 rs2) s = .next t ∧
      (t.reg rd).toInt = clamp32 ((s.reg rs1).toInt * (s.reg rs2).toInt / 65536) ∧ Unchanged { regs := [rd] } s t

/-! ## Buffer access -/

/-- 43_buffer_access.md R170. -/
def Obligations.PushAppendsTheSample : Prop :=
  ∀ imm : Half, OnlyWord (.push imm) (0x20000000 + imm.toNat) ∧
    ∀ s : State,
      (s.length < s.capacity → ∃ t, exec (.push imm) s = .next t ∧ t.rawAt s.length = imm ∧
        t.length = s.length + 1 ∧ Unchanged { csrs := [.len], raw := fun i => i = s.length } s t) ∧
      (s.capacity ≤ s.length → ∃ t, exec (.push imm) s = .next t ∧ RaisesOnly .badIndex s t)

/-- 43_buffer_access.md R171. -/
def Obligations.LdrawReadsTheSampleSignExtended : Prop :=
  ∀ (rd : Reg) (idx : Half),
    OnlyWord (.ldraw rd idx) (0x24000000 + rd.bits.toNat * 0x800000 + idx.toNat) ∧
    ∀ s : State,
      (idx.toNat < s.capacity → ∃ t, exec (.ldraw rd idx) s = .next t ∧
        (t.reg rd).toInt = (s.rawAt idx.toNat).toInt ∧ Unchanged { regs := [rd] } s t) ∧
      (s.capacity ≤ idx.toNat → ∃ t, exec (.ldraw rd idx) s = .next t ∧ RaisesOnly .badIndex s t)

/-- 43_buffer_access.md R172. -/
def Obligations.StrawStoresTheLowHalf : Prop :=
  ∀ (idx : Half) (rs1 : Reg),
    OnlyWord (.straw idx rs1) (0x28000000 + rs1.bits.toNat * 0x100000 + idx.toNat) ∧
    ∀ s : State,
      (idx.toNat < s.capacity → ∃ t, exec (.straw idx rs1) s = .next t ∧
        (t.rawAt idx.toNat).toNat = (s.reg rs1).toNat % 65536 ∧
        Unchanged { raw := fun i => i = idx.toNat } s t) ∧
      (s.capacity ≤ idx.toNat → ∃ t, exec (.straw idx rs1) s = .next t ∧ RaisesOnly .badIndex s t)

/-- 43_buffer_access.md R173. -/
def Obligations.LdsigReadsTheSignalCell : Prop :=
  ∀ (rd : Reg) (idx : Half),
    OnlyWord (.ldsig rd idx) (0x2C000000 + rd.bits.toNat * 0x800000 + idx.toNat) ∧
    ∀ s : State,
      (idx.toNat < s.capacity → ∃ t, exec (.ldsig rd idx) s = .next t ∧
        t.reg rd = s.sigAt idx.toNat ∧ Unchanged { regs := [rd] } s t) ∧
      (s.capacity ≤ idx.toNat → ∃ t, exec (.ldsig rd idx) s = .next t ∧ RaisesOnly .badIndex s t)

/-- 43_buffer_access.md R174. -/
def Obligations.StsigStoresTheSignalCell : Prop :=
  ∀ (idx : Half) (rs1 : Reg),
    OnlyWord (.stsig idx rs1) (0x30000000 + rs1.bits.toNat * 0x100000 + idx.toNat) ∧
    ∀ s : State,
      (idx.toNat < s.capacity → ∃ t, exec (.stsig idx rs1) s = .next t ∧
        t.sigAt idx.toNat = s.reg rs1 ∧ Unchanged { sig := fun i => i = idx.toNat } s t) ∧
      (s.capacity ≤ idx.toNat → ∃ t, exec (.stsig idx rs1) s = .next t ∧ RaisesOnly .badIndex s t)

/-- 43_buffer_access.md R175. -/
def Obligations.LdcandReadsTheCandidateZeroExtended : Prop :=
  ∀ (rd : Reg) (k : Half),
    OnlyWord (.ldcand rd k) (0x34000000 + rd.bits.toNat * 0x800000 + k.toNat) ∧
    ∀ s : State,
      (k.toNat < s.peakCapacity → ∃ t, exec (.ldcand rd k) s = .next t ∧
        (t.reg rd).toNat = (s.candAt k.toNat).toNat ∧ Unchanged { regs := [rd] } s t) ∧
      (s.peakCapacity ≤ k.toNat → ∃ t, exec (.ldcand rd k) s = .next t ∧ RaisesOnly .badIndex s t)

/-! ## Gradient, conversion of the buffer, detection -/

/-- 41_gradient_detection.md R121, with the function of R120. -/
def Obligations.GradIsTheFiniteDifference : Prop :=
  ∀ (rd : Reg) (idx : Half),
    OnlyWord (.grad rd idx) (0x40000000 + rd.bits.toNat * 0x800000 + idx.toNat) ∧
    ∀ s : State,
      (2 ≤ s.length → s.length ≤ s.capacity → idx.toNat < s.length →
        ∃ t, exec (.grad rd idx) s = .next t ∧
          (t.reg rd).toInt = gradientValue s.sample s.length idx.toNat ∧ Unchanged { regs := [rd] } s t) ∧
      (s.length < 2 ∨ s.capacity < s.length ∨ s.length ≤ idx.toNat →
        ∃ t, exec (.grad rd idx) s = .next t ∧ RaisesOnly .badIndex s t)

/-- 41_gradient_detection.md R122. -/
def Obligations.ConvConvertsTheWholeBuffer : Prop :=
  OnlyWord .conv 0x48000000 ∧
  ∀ s : State,
    (s.length = 0 ∨ s.capacity < s.length →
      ∃ t, exec .conv s = .next t ∧ t.csr .status = 2 ∧ Unchanged { csrs := [.status] } s t) ∧
    (0 < s.length → s.length ≤ s.capacity →
      ∃ t, exec .conv s = .next t ∧ t.csr .status = 1 ∧
        (∀ i, i < s.length → t.sample i = 65536 * (s.rawAt i).toInt) ∧
        Unchanged { csrs := [.status], sig := fun i => i < s.length } s t)

/-- 41_gradient_detection.md R125 with the scan of R124: the first MAX_PEAKS of the accepted indices, in ascending order. -/
def Obligations.DetectListsTheFirstAcceptedIndices : Prop :=
  OnlyWord .detect 0x4C000000 ∧
  ∀ s : State,
    (s.capacity < s.length →
      ∃ t, exec .detect s = .next t ∧ t.csr .status = 2 ∧ t.count = 0 ∧
        Unchanged { csrs := [.status, .candCount] } s t) ∧
    (s.length ≤ s.capacity → s.length < 3 →
      ∃ t, exec .detect s = .next t ∧ t.csr .status = 3 ∧ t.count = 0 ∧
        Unchanged { csrs := [.status, .candCount] } s t) ∧
    (3 ≤ s.length → s.length ≤ s.capacity →
      ∃ t cs, exec .detect s = .next t ∧ t.csr .status = 1 ∧
        IsCandidateList s.noiseFloor.toInt s.minGrad.toInt s.sample s.length cs ∧
        t.count = min cs.length s.peakCapacity ∧
        (∀ k, k < t.count → cs[k]? = some (t.candAt k).toNat) ∧
        Unchanged { csrs := [.status, .candCount], cand := fun k => k < t.count } s t)

/-- 41_gradient_detection.md R126 (c), which the spec marks as derived from R124: with a larger MAX_PEAKS the shorter
candidate list is a prefix of the longer. -/
def Obligations.MorePeaksOnlyExtendTheCandidateList : Prop :=
  ∀ (s t t' : State) (n : Half), s.peakCapacity ≤ n.toNat → 3 ≤ s.length → s.length ≤ s.capacity →
    exec .detect s = .next t →
    exec .detect { s with params := { maxSignalLength := s.params.maxSignalLength, maxPeaks := n } } = .next t' →
    t.count ≤ t'.count ∧ ∀ k, k < t.count → t.candAt k = t'.candAt k

/-- 41_gradient_detection.md R126 (d), which the spec marks as derived from R124: where MAX_PEAKS did not cut the list off, raising the noise floor or the minimum
gradient only removes candidates. -/
def Obligations.HigherThresholdsOnlyRemoveCandidates : Prop :=
  ∀ (s t t' : State) (nf mg : Word), s.noiseFloor.toInt ≤ nf.toInt → s.minGrad.toInt ≤ mg.toInt → 3 ≤ s.length →
    s.length ≤ s.capacity → exec .detect s = .next t → t.count < s.peakCapacity →
    exec .detect { s with noiseFloor := nf, minGrad := mg } = .next t' →
    ∀ k, k < t'.count → ∃ j, j < t.count ∧ t'.candAt k = t.candAt j

/-- 41_gradient_detection.md R126 (a): detection is a function of `SIG[0 .. L-1]`, L, NOISE_FLOOR, MIN_GRAD and the two
capacity parameters. -/
def Obligations.DetectDependsOnlyOnTheSignalAndThresholds : Prop :=
  ∀ s s' t t' : State, s.len = s'.len → s.params = s'.params → s.minGrad = s'.minGrad → s.noiseFloor = s'.noiseFloor →
    (∀ i, i < s.length → s.sigAt i = s'.sigAt i) → exec .detect s = .next t → exec .detect s' = .next t' →
    t.status = t'.status ∧ t.candCount = t'.candCount ∧ ∀ k, k < t.count → t.candAt k = t'.candAt k

/-! ## Prominence, selection, the find operation -/

/-- 42_prominence_selection.md R142, with the function of R140 and the guard of R141 (e). -/
def Obligations.PromIsThePeakMinusTheHigherSideMinimum : Prop :=
  ∀ (rd : Reg) (idx : Half),
    OnlyWord (.prom rd idx) (0x44000000 + rd.bits.toNat * 0x800000 + idx.toNat) ∧
    ∀ s : State,
      (s.length = 0 ∨ s.capacity < s.length ∨ s.length ≤ idx.toNat →
        ∃ t, exec (.prom rd idx) s = .next t ∧ t.reg rd = 0 ∧ Unchanged { regs := [rd] } s t) ∧
      (s.length ≤ s.capacity → idx.toNat < s.length →
        ∃ t, exec (.prom rd idx) s = .next t ∧
          IsProminence s.sample s.length idx.toNat (t.reg rd).toInt ∧ Unchanged { regs := [rd] } s t)

/-- 42_prominence_selection.md R141 (a), which the spec marks as derived from R140: a prominence is never negative, and is zero
exactly at an end of the signal or next to a sample not below the peak. -/
def Obligations.ProminenceIsZeroExactlyBesideNoLowerSample : Prop :=
  ∀ (rd : Reg) (idx : Half) (s : State), s.length ≤ s.capacity → idx.toNat < s.length →
    ∃ t, exec (.prom rd idx) s = .next t ∧ 0 ≤ (t.reg rd).toInt ∧
      (t.reg rd = 0 ↔ idx.toNat = 0 ∨ idx.toNat + 1 = s.length ∨ s.sample idx.toNat ≤ s.sample (idx.toNat - 1) ∨
        s.sample idx.toNat ≤ s.sample (idx.toNat + 1))

/-- 42_prominence_selection.md R144 with the loop of R143, in the form of R145, which the spec marks as derived from R143: no
candidate at or above the threshold gives NO_PEAK; otherwise the earliest candidate of greatest prominence is selected; and
lowering the threshold, while something was selected, keeps the selection. -/
def Obligations.SelectTakesTheFirstOfTheLargest : Prop :=
  OnlyWord .select 0x50000000 ∧
  ∀ s : State, ∃ t, exec .select s = .next t ∧ Unchanged { csrs := [.status, .bestIdx, .bestProm] } s t ∧
    ((∀ k, k < s.count → (s.promOrZero (s.candAt k).toNat).toInt < s.minProm.toInt) →
      t.csr .status = 4 ∧ t.bestIdx = 0 ∧ t.bestProm = 0) ∧
    (∀ k, k < s.count → s.minProm.toInt ≤ (s.promOrZero (s.candAt k).toNat).toInt →
      (∀ j, j < s.count →
        (s.promOrZero (s.candAt j).toNat).toInt ≤ (s.promOrZero (s.candAt k).toNat).toInt) →
      (∀ j, j < k → (s.promOrZero (s.candAt j).toNat).toInt < (s.promOrZero (s.candAt k).toNat).toInt) →
      t.csr .status = 1 ∧ t.bestIdx = s.candAt k ∧ t.bestProm = s.promOrZero (s.candAt k).toNat) ∧
    (∀ v : Word, v.toInt ≤ s.minProm.toInt → t.csr .status = 1 →
      ∃ t', exec .select { s with minProm := v } = .next t' ∧ t'.csr .status = 1 ∧ t'.bestIdx = t.bestIdx ∧
        t'.bestProm = t.bestProm)

/-- 42_prominence_selection.md R146, from the raw samples to the result: the failure tests in their order, the conversion, the
candidates of the converted signal, and the earliest of the most prominent ones at or above the threshold. -/
def Obligations.FindSelectsTheMostProminentPeak : Prop :=
  OnlyWord .find 0x54000000 ∧
  ∀ s : State,
    (s.length = 0 ∨ s.capacity < s.length →
      ∃ t, exec .find s = .next t ∧ t.csr .status = 2 ∧ t.bestIdx = 0 ∧ t.bestProm = 0 ∧
        Unchanged { csrs := [.status, .bestIdx, .bestProm] } s t) ∧
    (0 < s.length → s.length < 3 → s.length ≤ s.capacity →
      ∃ t, exec .find s = .next t ∧ t.csr .status = 3 ∧ t.bestIdx = 0 ∧ t.bestProm = 0 ∧ t.count = 0 ∧
        (∀ i, i < s.length → t.sample i = 65536 * (s.rawAt i).toInt) ∧
        Unchanged { csrs := [.status, .bestIdx, .bestProm, .candCount], sig := fun i => i < s.length } s t) ∧
    (3 ≤ s.length → s.length ≤ s.capacity →
      ∃ t cs, exec .find s = .next t ∧
        (∀ i, i < s.length → t.sample i = 65536 * (s.rawAt i).toInt) ∧
        IsCandidateList s.noiseFloor.toInt s.minGrad.toInt t.sample s.length cs ∧
        t.count = min cs.length s.peakCapacity ∧
        (∀ k, k < t.count → cs[k]? = some (t.candAt k).toNat) ∧
        ((t.csr .status = 4 ∧ t.bestIdx = 0 ∧ t.bestProm = 0 ∧
            ∀ k v, k < t.count → IsProminence t.sample s.length (t.candAt k).toNat v → v < s.minProm.toInt) ∨
          (t.csr .status = 1 ∧ ∃ k, k < t.count ∧ t.bestIdx = t.candAt k ∧
            IsProminence t.sample s.length (t.candAt k).toNat t.bestProm.toInt ∧
            s.minProm.toInt ≤ t.bestProm.toInt ∧
            ∀ j v, j < t.count → IsProminence t.sample s.length (t.candAt j).toNat v →
              v ≤ t.bestProm.toInt ∧ (j < k → v < t.bestProm.toInt))) ∧
        Unchanged { csrs := [.status, .bestIdx, .bestProm, .candCount], sig := fun i => i < s.length,
                    cand := fun k => k < t.count } s t)

/-- 42_prominence_selection.md R147, which the spec marks as derived from R122, R125, R144 and R146: `FIND` against `CONV`;
`DETECT`; `SELECT`. -/
def Obligations.FindAgreesWithTheStagedCommands : Prop :=
  ∀ s : State, ∃ t1 t2 t3 t, exec .conv s = .next t1 ∧ exec .detect t1 = .next t2 ∧ exec .select t2 = .next t3 ∧
    exec .find s = .next t ∧
    (3 ≤ s.length → s.length ≤ s.capacity → t = t3) ∧
    (0 < s.length → s.length < 3 → s.length ≤ s.capacity →
      t3.csr .status = 4 ∧ t.csr .status = 3 ∧ Unchanged { csrs := [.status] } t3 t) ∧
    (s.length = 0 ∨ s.capacity < s.length → t3.count = 0 ∧ t.count = s.count)

/-- 42_prominence_selection.md R148: repeating `FIND` changes nothing. -/
def Obligations.FindTwiceChangesNothing : Prop :=
  ∀ s t : State, exec .find s = .next t → exec .find t = .next t

/-- 42_prominence_selection.md R148: `FIND` is a function of `RAW[0 .. L-1]`, L, the three thresholds and the two capacity
parameters: no register, no earlier result and no other cell reaches its results. -/
def Obligations.FindDependsOnlyOnTheSignalAndThresholds : Prop :=
  ∀ s s' t t' : State, s.len = s'.len → s.params = s'.params → s.minProm = s'.minProm → s.minGrad = s'.minGrad →
    s.noiseFloor = s'.noiseFloor → (∀ i, i < s.length → s.rawAt i = s'.rawAt i) →
    exec .find s = .next t → exec .find s' = .next t' →
    t.status = t'.status ∧ t.bestIdx = t'.bestIdx ∧ t.bestProm = t'.bestProm ∧
    (0 < s.length → s.length ≤ s.capacity → t.candCount = t'.candCount ∧
      (∀ i, i < s.length → t.sigAt i = t'.sigAt i) ∧ ∀ k, k < t.count → t.candAt k = t'.candAt k)

/-! ## System commands -/

/-- 44_system.md R185. -/
def Obligations.NopChangesNothing : Prop :=
  OnlyWord .nop 0 ∧ ∀ s : State, exec .nop s = .next s

/-- 44_system.md R186, with the numbers and widths of 10_state.md R25. -/
def Obligations.CsrrReadsTheCsrZeroExtended : Prop :=
  ∀ (rd : Reg) (csr : Half),
    OnlyWord (.csrr rd csr) (0x60000000 + rd.bits.toNat * 0x800000 + csr.toNat) ∧
    ∀ s : State,
      (csr.toNat ≤ 0x0009 → ∃ t, exec (.csrr rd csr) s = .next t ∧ Unchanged { regs := [rd] } s t ∧
        (csr = 0 → (t.reg rd).toNat = s.len.toNat) ∧
        (csr = 1 → t.reg rd = s.minProm) ∧
        (csr = 2 → t.reg rd = s.minGrad) ∧
        (csr = 3 → t.reg rd = s.noiseFloor) ∧
        (csr = 4 → t.reg rd = match s.status with
          | .none => 0 | .ok => 1 | .invalidInput => 2 | .bufferTooSmall => 3 | .noPeak => 4) ∧
        (csr = 5 → (t.reg rd).toNat = s.bestIdx.toNat) ∧
        (csr = 6 → t.reg rd = s.bestProm) ∧
        (csr = 7 → (t.reg rd).toNat = s.candCount.toNat) ∧
        (csr = 8 → t.reg rd = match s.cmdErr with
          | .none => 0 | .illegalOpcode => 1 | .reservedField => 2 | .badIndex => 3 | .badCsr => 4) ∧
        (csr = 9 → (t.reg rd).toNat = s.params.maxPeaks.toNat * 65536 + s.params.maxSignalLength.toNat)) ∧
      (0x0009 < csr.toNat → ∃ t, exec (.csrr rd csr) s = .next t ∧ RaisesOnly .badCsr s t)

/-- 44_system.md R187. -/
def Obligations.CsrwWritesTheWritableCsr : Prop :=
  ∀ (csr : Half) (rs1 : Reg),
    OnlyWord (.csrw csr rs1) (0x64000000 + rs1.bits.toNat * 0x100000 + csr.toNat) ∧
    ∀ s : State,
      (csr = 0 → ∃ t, exec (.csrw csr rs1) s = .next t ∧ t.len.toNat = (s.reg rs1).toNat % 65536 ∧
        Unchanged { csrs := [.len] } s t) ∧
      (csr = 1 → ∃ t, exec (.csrw csr rs1) s = .next t ∧ t.minProm = s.reg rs1 ∧
        Unchanged { csrs := [.minProm] } s t) ∧
      (csr = 2 → ∃ t, exec (.csrw csr rs1) s = .next t ∧ t.minGrad = s.reg rs1 ∧
        Unchanged { csrs := [.minGrad] } s t) ∧
      (csr = 3 → ∃ t, exec (.csrw csr rs1) s = .next t ∧ t.noiseFloor = s.reg rs1 ∧
        Unchanged { csrs := [.noiseFloor] } s t) ∧
      (0x0003 < csr.toNat → ∃ t, exec (.csrw csr rs1) s = .next t ∧ RaisesOnly .badCsr s t)

/-- 44_system.md R188. -/
def Obligations.CfgdefRestoresTheDefaultThresholds : Prop :=
  OnlyWord .cfgdef 0x68000000 ∧
  ∀ s : State, ∃ t, exec .cfgdef s = .next t ∧ t.minProm = 0x00010000 ∧ t.minGrad = 0x00001999 ∧
    t.noiseFloor = 0x000A0000 ∧ Unchanged { csrs := [.minProm, .minGrad, .noiseFloor] } s t

/-- 44_system.md R189. -/
def Obligations.OutAppendsTheRegister : Prop :=
  ∀ rs1 : Reg, OnlyWord (.out rs1) (0x6C000000 + rs1.bits.toNat * 0x100000) ∧
    ∀ s : State, ∃ t, exec (.out rs1) s = .next t ∧ t.outq = s.outq ++ [s.reg rs1] ∧
      Unchanged { outq := true } s t

/-! ## The whole machine -/

/-- 60_exceptions.md R208 and R209: with no error recorded before, a command that decodes records BAD_INDEX exactly where R208
lists it, BAD_CSR exactly where R209 does, and no error anywhere else. -/
def Obligations.CommandErrorsArriveExactlyWhereListed : Prop :=
  ∀ (i : Instr) (s t : State), s.cmdErr = .none → exec i s = .next t →
    (t.cmdErr = .badIndex ↔ match i with
      | .ldraw _ idx => s.capacity ≤ idx.toNat
      | .straw idx _ => s.capacity ≤ idx.toNat
      | .ldsig _ idx => s.capacity ≤ idx.toNat
      | .stsig idx _ => s.capacity ≤ idx.toNat
      | .ldcand _ k => s.peakCapacity ≤ k.toNat
      | .push _ => s.capacity ≤ s.length
      | .grad _ idx => s.length < 2 ∨ s.capacity < s.length ∨ s.length ≤ idx.toNat
      | _ => False) ∧
    (t.cmdErr = .badCsr ↔ match i with
      | .csrr _ csr => 0x0009 < csr.toNat
      | .csrw csr _ => 0x0003 < csr.toNat
      | _ => False) ∧
    (t.cmdErr = .none ∨ t.cmdErr = .badIndex ∨ t.cmdErr = .badCsr)

/-- 10_state.md R35: `CMDERR` is 0 at reset, takes only the codes 0 to 4, cannot be written by `CSRW`, and once non-zero is
changed by nothing but reset. -/
def Obligations.CmderrKeepsTheFirstError : Prop :=
  State.reset.csr .cmdErr = 0 ∧
  (∀ s : State, (s.csr .cmdErr).toNat ≤ 4) ∧
  (∀ (rs1 : Reg) (s : State), ∃ t, exec (.csrw 8 rs1) s = .next t ∧ RaisesOnly .badCsr s t) ∧
  ∀ s t : State, step s = .next t → s.port.head? ≠ some .reset → s.cmdErr ≠ .none → t.cmdErr = s.cmdErr

/-- 10_state.md R36: `CAPS` shows the two parameters, reads 0x00100100 in the reference configuration, cannot be written, and
no step changes it. -/
def Obligations.CapsIsConstant : Prop :=
  (∀ s : State, (s.csr .caps).toNat = s.params.maxPeaks.toNat * 65536 + s.params.maxSignalLength.toNat) ∧
  (∀ s : State, s.params = Config.reference → s.csr .caps = 0x00100100) ∧
  (∀ (rs1 : Reg) (s : State), ∃ t, exec (.csrw 9 rs1) s = .next t ∧ RaisesOnly .badCsr s t) ∧
  ∀ s t : State, step s = .next t → t.csr .caps = s.csr .caps

/-- 10_state.md R26 to R30: LEN is changed by `PUSH` and `CSRW` alone, each threshold by `CFGDEF` and its own `CSRW` alone. -/
def Obligations.OnlyTheirWritersChangeLenAndThresholds : Prop :=
  ∀ (i : Instr) (s t : State), exec i s = .next t →
    (t.len ≠ s.len → (∃ imm, i = .push imm) ∨ ∃ rs1, i = .csrw 0 rs1) ∧
    (t.minProm ≠ s.minProm → i = .cfgdef ∨ ∃ rs1, i = .csrw 1 rs1) ∧
    (t.minGrad ≠ s.minGrad → i = .cfgdef ∨ ∃ rs1, i = .csrw 2 rs1) ∧
    (t.noiseFloor ≠ s.noiseFloor → i = .cfgdef ∨ ∃ rs1, i = .csrw 3 rs1)

/-- 10_state.md R31 to R34: `STATUS` is changed by `CONV`, `DETECT`, `SELECT` and `FIND` alone, the result registers by
`SELECT` and `FIND` alone, `CAND_COUNT` by `DETECT` and `FIND` alone. -/
def Obligations.OnlyTheirWritersChangeTheResults : Prop :=
  ∀ (i : Instr) (s t : State), exec i s = .next t →
    (t.status ≠ s.status → i = .conv ∨ i = .detect ∨ i = .select ∨ i = .find) ∧
    (t.bestIdx ≠ s.bestIdx → i = .select ∨ i = .find) ∧
    (t.bestProm ≠ s.bestProm → i = .select ∨ i = .find) ∧
    (t.candCount ≠ s.candCount → i = .detect ∨ i = .find)

/-- 10_state.md R38 to R40: the commands that write each index space. -/
def Obligations.OnlyTheirWritersChangeTheBuffers : Prop :=
  ∀ (i : Instr) (s t : State), exec i s = .next t →
    (∀ j, t.rawAt j ≠ s.rawAt j → (∃ imm, i = .push imm) ∨ ∃ idx rs1, i = .straw idx rs1) ∧
    (∀ j, t.sigAt j ≠ s.sigAt j → i = .conv ∨ i = .find ∨ ∃ idx rs1, i = .stsig idx rs1) ∧
    (∀ j, t.candAt j ≠ s.candAt j → i = .detect ∨ i = .find)

/-- 10_state.md R21: a command changes no scalar register but its `rd`, and only if it is one of the twelve that have one. -/
def Obligations.OnlyTheDestinationRegisterChanges : Prop :=
  ∀ (i : Instr) (s t : State) (r : Reg), exec i s = .next t → t.reg r ≠ s.reg r → destinationOf i = some r

/-- 10_state.md R21: a register that is no source of a command does not reach its effect: with another value in it the command
leaves the same state, up to that register itself. -/
def Obligations.OnlySourceRegistersAreRead : Prop :=
  ∀ (i : Instr) (s t : State) (r : Reg) (v : Word), r ∉ sourcesOf i → exec i s = .next t →
    ∃ t', exec i (s.setReg r v) = .next t' ∧ (t' = t.setReg r v ∨ (t' = t ∧ destinationOf i = some r))

/-- 10_state.md R41: `OUTQ` is changed only by `OUT`, which appends one word, and nothing in the block reads it. -/
def Obligations.OutqOnlyGrowsAndIsNeverRead : Prop :=
  ∀ (i : Instr) (s t : State), exec i s = .next t →
    (t.outq = s.outq ∨ ∃ rs1, i = .out rs1 ∧ t.outq = s.outq ++ [s.reg rs1]) ∧
    ∀ q : List Word, exec i { s with outq := q ++ s.outq } = .next { t with outq := q ++ t.outq }

/-! ## Invariants -/

/-- The three invariants hold of the reset state. -/
def Obligations.ResetMeetsTheInvariants : Prop :=
  MemoryInv State.reset ∧ CandidateInv State.reset ∧ ResultInv State.reset

/-- 20_memory.md R65: every step keeps the memory canonical and inside its spaces. The canonical form is the model's own
(log entry 13). -/
def Obligations.StepKeepsTheMemoryCanonical : Prop :=
  ∀ s t : State, MemoryInv s → step s = .next t → MemoryInv t

/-- 10_state.md R34, R40 and 41_gradient_detection.md R124, in the clauses the spec marks as derived from the scan: every step
keeps the candidate list bounded by MAX_PEAKS, written, interior and strictly ascending. -/
def Obligations.StepKeepsTheCandidateListOrdered : Prop :=
  ∀ s t : State, CandidateInv s → step s = .next t → CandidateInv t

/-- 10_state.md R31 to R33 and 42_prominence_selection.md R141, inferred from the commands that write the
results: every step keeps them as the commands leave them. -/
def Obligations.StepKeepsTheResultsConsistent : Prop :=
  ∀ s t : State, CandidateInv s → ResultInv s → step s = .next t → ResultInv t
end

