-- ==== Sys2Proof/Laws/State.lean ====
section
/-! SUPPORT. One lemma per field and per update of the state, true by `rfl` (or by a case split where the update has one), so
that no proof unfolds a record update. -/

namespace Sys2Proof.Machine

variable (s : State)


/-! ## `State.setReg` -/

@[simp] theorem State.setReg_regs (r' : Reg) (v : Word) : (s.setReg r' v).regs = s.regs.set r' v := rfl
@[simp] theorem State.setReg_len (r' : Reg) (v : Word) : (s.setReg r' v).len = s.len := rfl
@[simp] theorem State.setReg_minProm (r' : Reg) (v : Word) : (s.setReg r' v).minProm = s.minProm := rfl
@[simp] theorem State.setReg_minGrad (r' : Reg) (v : Word) : (s.setReg r' v).minGrad = s.minGrad := rfl
@[simp] theorem State.setReg_noiseFloor (r' : Reg) (v : Word) : (s.setReg r' v).noiseFloor = s.noiseFloor := rfl
@[simp] theorem State.setReg_status (r' : Reg) (v : Word) : (s.setReg r' v).status = s.status := rfl
@[simp] theorem State.setReg_bestIdx (r' : Reg) (v : Word) : (s.setReg r' v).bestIdx = s.bestIdx := rfl
@[simp] theorem State.setReg_bestProm (r' : Reg) (v : Word) : (s.setReg r' v).bestProm = s.bestProm := rfl
@[simp] theorem State.setReg_candCount (r' : Reg) (v : Word) : (s.setReg r' v).candCount = s.candCount := rfl
@[simp] theorem State.setReg_cmdErr (r' : Reg) (v : Word) : (s.setReg r' v).cmdErr = s.cmdErr := rfl
@[simp] theorem State.setReg_params (r' : Reg) (v : Word) : (s.setReg r' v).params = s.params := rfl
@[simp] theorem State.setReg_mem (r' : Reg) (v : Word) : (s.setReg r' v).mem = s.mem := rfl
@[simp] theorem State.setReg_outq (r' : Reg) (v : Word) : (s.setReg r' v).outq = s.outq := rfl
@[simp] theorem State.setReg_port (r' : Reg) (v : Word) : (s.setReg r' v).port = s.port := rfl
@[simp] theorem State.setReg_resets (r' : Reg) (v : Word) : (s.setReg r' v).resets = s.resets := rfl
@[simp] theorem State.setReg_rawAt (r' : Reg) (v : Word) (i : Nat) : (s.setReg r' v).rawAt i = s.rawAt i := rfl
@[simp] theorem State.setReg_sigAt (r' : Reg) (v : Word) (i : Nat) : (s.setReg r' v).sigAt i = s.sigAt i := rfl
@[simp] theorem State.setReg_candAt (r' : Reg) (v : Word) (i : Nat) : (s.setReg r' v).candAt i = s.candAt i := rfl
@[simp] theorem State.setReg_length (r' : Reg) (v : Word) : (s.setReg r' v).length = s.length := rfl
@[simp] theorem State.setReg_capacity (r' : Reg) (v : Word) : (s.setReg r' v).capacity = s.capacity := rfl
@[simp] theorem State.setReg_peakCapacity (r' : Reg) (v : Word) : (s.setReg r' v).peakCapacity = s.peakCapacity := rfl
@[simp] theorem State.setReg_count (r' : Reg) (v : Word) : (s.setReg r' v).count = s.count := rfl
@[simp] theorem State.setReg_thresholds (r' : Reg) (v : Word) : (s.setReg r' v).thresholds = s.thresholds := rfl
@[simp] theorem State.setReg_lengthInvalid (r' : Reg) (v : Word) : (s.setReg r' v).lengthInvalid = s.lengthInvalid := rfl
@[simp] theorem State.setReg_lengthTooLarge (r' : Reg) (v : Word) : (s.setReg r' v).lengthTooLarge = s.lengthTooLarge := rfl
@[simp] theorem State.setReg_lengthTooSmall (r' : Reg) (v : Word) : (s.setReg r' v).lengthTooSmall = s.lengthTooSmall := rfl
@[simp] theorem State.setReg_promOrZero (r' : Reg) (v : Word) (i : Nat) : (s.setReg r' v).promOrZero i = s.promOrZero i := rfl

/-! ## `State.writeRaw` -/

@[simp] theorem State.writeRaw_regs (j : Nat) (v : Half) : (s.writeRaw j v).regs = s.regs := rfl
@[simp] theorem State.writeRaw_len (j : Nat) (v : Half) : (s.writeRaw j v).len = s.len := rfl
@[simp] theorem State.writeRaw_minProm (j : Nat) (v : Half) : (s.writeRaw j v).minProm = s.minProm := rfl
@[simp] theorem State.writeRaw_minGrad (j : Nat) (v : Half) : (s.writeRaw j v).minGrad = s.minGrad := rfl
@[simp] theorem State.writeRaw_noiseFloor (j : Nat) (v : Half) : (s.writeRaw j v).noiseFloor = s.noiseFloor := rfl
@[simp] theorem State.writeRaw_status (j : Nat) (v : Half) : (s.writeRaw j v).status = s.status := rfl
@[simp] theorem State.writeRaw_bestIdx (j : Nat) (v : Half) : (s.writeRaw j v).bestIdx = s.bestIdx := rfl
@[simp] theorem State.writeRaw_bestProm (j : Nat) (v : Half) : (s.writeRaw j v).bestProm = s.bestProm := rfl
@[simp] theorem State.writeRaw_candCount (j : Nat) (v : Half) : (s.writeRaw j v).candCount = s.candCount := rfl
@[simp] theorem State.writeRaw_cmdErr (j : Nat) (v : Half) : (s.writeRaw j v).cmdErr = s.cmdErr := rfl
@[simp] theorem State.writeRaw_params (j : Nat) (v : Half) : (s.writeRaw j v).params = s.params := rfl
@[simp] theorem State.writeRaw_outq (j : Nat) (v : Half) : (s.writeRaw j v).outq = s.outq := rfl
@[simp] theorem State.writeRaw_port (j : Nat) (v : Half) : (s.writeRaw j v).port = s.port := rfl
@[simp] theorem State.writeRaw_resets (j : Nat) (v : Half) : (s.writeRaw j v).resets = s.resets := rfl
@[simp] theorem State.writeRaw_mem_raw (j : Nat) (v : Half) : (s.writeRaw j v).mem.raw = s.mem.raw.set j v := rfl
@[simp] theorem State.writeRaw_mem_sig (j : Nat) (v : Half) : (s.writeRaw j v).mem.sig = s.mem.sig := rfl
@[simp] theorem State.writeRaw_mem_cand (j : Nat) (v : Half) : (s.writeRaw j v).mem.cand = s.mem.cand := rfl
@[simp] theorem State.writeRaw_reg (j : Nat) (v : Half) (r : Reg) : (s.writeRaw j v).reg r = s.reg r := rfl
@[simp] theorem State.writeRaw_sigAt (j : Nat) (v : Half) (i : Nat) : (s.writeRaw j v).sigAt i = s.sigAt i := rfl
@[simp] theorem State.writeRaw_candAt (j : Nat) (v : Half) (i : Nat) : (s.writeRaw j v).candAt i = s.candAt i := rfl
@[simp] theorem State.writeRaw_length (j : Nat) (v : Half) : (s.writeRaw j v).length = s.length := rfl
@[simp] theorem State.writeRaw_capacity (j : Nat) (v : Half) : (s.writeRaw j v).capacity = s.capacity := rfl
@[simp] theorem State.writeRaw_peakCapacity (j : Nat) (v : Half) : (s.writeRaw j v).peakCapacity = s.peakCapacity := rfl
@[simp] theorem State.writeRaw_count (j : Nat) (v : Half) : (s.writeRaw j v).count = s.count := rfl
@[simp] theorem State.writeRaw_thresholds (j : Nat) (v : Half) : (s.writeRaw j v).thresholds = s.thresholds := rfl
@[simp] theorem State.writeRaw_lengthInvalid (j : Nat) (v : Half) : (s.writeRaw j v).lengthInvalid = s.lengthInvalid := rfl
@[simp] theorem State.writeRaw_lengthTooLarge (j : Nat) (v : Half) : (s.writeRaw j v).lengthTooLarge = s.lengthTooLarge := rfl
@[simp] theorem State.writeRaw_lengthTooSmall (j : Nat) (v : Half) : (s.writeRaw j v).lengthTooSmall = s.lengthTooSmall := rfl
@[simp] theorem State.writeRaw_promOrZero (j : Nat) (v : Half) (i : Nat) : (s.writeRaw j v).promOrZero i = s.promOrZero i := rfl

/-! ## `State.writeSig` -/

@[simp] theorem State.writeSig_regs (j : Nat) (v : Word) : (s.writeSig j v).regs = s.regs := rfl
@[simp] theorem State.writeSig_len (j : Nat) (v : Word) : (s.writeSig j v).len = s.len := rfl
@[simp] theorem State.writeSig_minProm (j : Nat) (v : Word) : (s.writeSig j v).minProm = s.minProm := rfl
@[simp] theorem State.writeSig_minGrad (j : Nat) (v : Word) : (s.writeSig j v).minGrad = s.minGrad := rfl
@[simp] theorem State.writeSig_noiseFloor (j : Nat) (v : Word) : (s.writeSig j v).noiseFloor = s.noiseFloor := rfl
@[simp] theorem State.writeSig_status (j : Nat) (v : Word) : (s.writeSig j v).status = s.status := rfl
@[simp] theorem State.writeSig_bestIdx (j : Nat) (v : Word) : (s.writeSig j v).bestIdx = s.bestIdx := rfl
@[simp] theorem State.writeSig_bestProm (j : Nat) (v : Word) : (s.writeSig j v).bestProm = s.bestProm := rfl
@[simp] theorem State.writeSig_candCount (j : Nat) (v : Word) : (s.writeSig j v).candCount = s.candCount := rfl
@[simp] theorem State.writeSig_cmdErr (j : Nat) (v : Word) : (s.writeSig j v).cmdErr = s.cmdErr := rfl
@[simp] theorem State.writeSig_params (j : Nat) (v : Word) : (s.writeSig j v).params = s.params := rfl
@[simp] theorem State.writeSig_outq (j : Nat) (v : Word) : (s.writeSig j v).outq = s.outq := rfl
@[simp] theorem State.writeSig_port (j : Nat) (v : Word) : (s.writeSig j v).port = s.port := rfl
@[simp] theorem State.writeSig_resets (j : Nat) (v : Word) : (s.writeSig j v).resets = s.resets := rfl
@[simp] theorem State.writeSig_mem_raw (j : Nat) (v : Word) : (s.writeSig j v).mem.raw = s.mem.raw := rfl
@[simp] theorem State.writeSig_mem_sig (j : Nat) (v : Word) : (s.writeSig j v).mem.sig = s.mem.sig.set j v := rfl
@[simp] theorem State.writeSig_mem_cand (j : Nat) (v : Word) : (s.writeSig j v).mem.cand = s.mem.cand := rfl
@[simp] theorem State.writeSig_reg (j : Nat) (v : Word) (r : Reg) : (s.writeSig j v).reg r = s.reg r := rfl
@[simp] theorem State.writeSig_rawAt (j : Nat) (v : Word) (i : Nat) : (s.writeSig j v).rawAt i = s.rawAt i := rfl
@[simp] theorem State.writeSig_candAt (j : Nat) (v : Word) (i : Nat) : (s.writeSig j v).candAt i = s.candAt i := rfl
@[simp] theorem State.writeSig_length (j : Nat) (v : Word) : (s.writeSig j v).length = s.length := rfl
@[simp] theorem State.writeSig_capacity (j : Nat) (v : Word) : (s.writeSig j v).capacity = s.capacity := rfl
@[simp] theorem State.writeSig_peakCapacity (j : Nat) (v : Word) : (s.writeSig j v).peakCapacity = s.peakCapacity := rfl
@[simp] theorem State.writeSig_count (j : Nat) (v : Word) : (s.writeSig j v).count = s.count := rfl
@[simp] theorem State.writeSig_thresholds (j : Nat) (v : Word) : (s.writeSig j v).thresholds = s.thresholds := rfl
@[simp] theorem State.writeSig_lengthInvalid (j : Nat) (v : Word) : (s.writeSig j v).lengthInvalid = s.lengthInvalid := rfl
@[simp] theorem State.writeSig_lengthTooLarge (j : Nat) (v : Word) : (s.writeSig j v).lengthTooLarge = s.lengthTooLarge := rfl
@[simp] theorem State.writeSig_lengthTooSmall (j : Nat) (v : Word) : (s.writeSig j v).lengthTooSmall = s.lengthTooSmall := rfl

/-! ## `State.setStatus` -/

@[simp] theorem State.setStatus_regs (c : Status) : (s.setStatus c).regs = s.regs := rfl
@[simp] theorem State.setStatus_len (c : Status) : (s.setStatus c).len = s.len := rfl
@[simp] theorem State.setStatus_minProm (c : Status) : (s.setStatus c).minProm = s.minProm := rfl
@[simp] theorem State.setStatus_minGrad (c : Status) : (s.setStatus c).minGrad = s.minGrad := rfl
@[simp] theorem State.setStatus_noiseFloor (c : Status) : (s.setStatus c).noiseFloor = s.noiseFloor := rfl
@[simp] theorem State.setStatus_status (c : Status) : (s.setStatus c).status = c := rfl
@[simp] theorem State.setStatus_bestIdx (c : Status) : (s.setStatus c).bestIdx = s.bestIdx := rfl
@[simp] theorem State.setStatus_bestProm (c : Status) : (s.setStatus c).bestProm = s.bestProm := rfl
@[simp] theorem State.setStatus_candCount (c : Status) : (s.setStatus c).candCount = s.candCount := rfl
@[simp] theorem State.setStatus_cmdErr (c : Status) : (s.setStatus c).cmdErr = s.cmdErr := rfl
@[simp] theorem State.setStatus_params (c : Status) : (s.setStatus c).params = s.params := rfl
@[simp] theorem State.setStatus_mem (c : Status) : (s.setStatus c).mem = s.mem := rfl
@[simp] theorem State.setStatus_outq (c : Status) : (s.setStatus c).outq = s.outq := rfl
@[simp] theorem State.setStatus_port (c : Status) : (s.setStatus c).port = s.port := rfl
@[simp] theorem State.setStatus_resets (c : Status) : (s.setStatus c).resets = s.resets := rfl
@[simp] theorem State.setStatus_reg (c : Status) (r : Reg) : (s.setStatus c).reg r = s.reg r := rfl
@[simp] theorem State.setStatus_rawAt (c : Status) (i : Nat) : (s.setStatus c).rawAt i = s.rawAt i := rfl
@[simp] theorem State.setStatus_sigAt (c : Status) (i : Nat) : (s.setStatus c).sigAt i = s.sigAt i := rfl
@[simp] theorem State.setStatus_candAt (c : Status) (i : Nat) : (s.setStatus c).candAt i = s.candAt i := rfl
@[simp] theorem State.setStatus_length (c : Status) : (s.setStatus c).length = s.length := rfl
@[simp] theorem State.setStatus_capacity (c : Status) : (s.setStatus c).capacity = s.capacity := rfl
@[simp] theorem State.setStatus_peakCapacity (c : Status) : (s.setStatus c).peakCapacity = s.peakCapacity := rfl
@[simp] theorem State.setStatus_count (c : Status) : (s.setStatus c).count = s.count := rfl
@[simp] theorem State.setStatus_thresholds (c : Status) : (s.setStatus c).thresholds = s.thresholds := rfl
@[simp] theorem State.setStatus_lengthInvalid (c : Status) : (s.setStatus c).lengthInvalid = s.lengthInvalid := rfl
@[simp] theorem State.setStatus_lengthTooLarge (c : Status) : (s.setStatus c).lengthTooLarge = s.lengthTooLarge := rfl
@[simp] theorem State.setStatus_lengthTooSmall (c : Status) : (s.setStatus c).lengthTooSmall = s.lengthTooSmall := rfl
@[simp] theorem State.setStatus_promOrZero (c : Status) (i : Nat) : (s.setStatus c).promOrZero i = s.promOrZero i := rfl

/-! ## `State.setMinProm` -/

@[simp] theorem State.setMinProm_regs (v : Word) : (s.setMinProm v).regs = s.regs := rfl
@[simp] theorem State.setMinProm_len (v : Word) : (s.setMinProm v).len = s.len := rfl
@[simp] theorem State.setMinProm_minProm (v : Word) : (s.setMinProm v).minProm = v := rfl
@[simp] theorem State.setMinProm_minGrad (v : Word) : (s.setMinProm v).minGrad = s.minGrad := rfl
@[simp] theorem State.setMinProm_noiseFloor (v : Word) : (s.setMinProm v).noiseFloor = s.noiseFloor := rfl
@[simp] theorem State.setMinProm_status (v : Word) : (s.setMinProm v).status = s.status := rfl
@[simp] theorem State.setMinProm_bestIdx (v : Word) : (s.setMinProm v).bestIdx = s.bestIdx := rfl
@[simp] theorem State.setMinProm_bestProm (v : Word) : (s.setMinProm v).bestProm = s.bestProm := rfl
@[simp] theorem State.setMinProm_candCount (v : Word) : (s.setMinProm v).candCount = s.candCount := rfl
@[simp] theorem State.setMinProm_cmdErr (v : Word) : (s.setMinProm v).cmdErr = s.cmdErr := rfl
@[simp] theorem State.setMinProm_params (v : Word) : (s.setMinProm v).params = s.params := rfl
@[simp] theorem State.setMinProm_mem (v : Word) : (s.setMinProm v).mem = s.mem := rfl
@[simp] theorem State.setMinProm_outq (v : Word) : (s.setMinProm v).outq = s.outq := rfl
@[simp] theorem State.setMinProm_port (v : Word) : (s.setMinProm v).port = s.port := rfl
@[simp] theorem State.setMinProm_resets (v : Word) : (s.setMinProm v).resets = s.resets := rfl
@[simp] theorem State.setMinProm_reg (v : Word) (r : Reg) : (s.setMinProm v).reg r = s.reg r := rfl
@[simp] theorem State.setMinProm_rawAt (v : Word) (i : Nat) : (s.setMinProm v).rawAt i = s.rawAt i := rfl
@[simp] theorem State.setMinProm_sigAt (v : Word) (i : Nat) : (s.setMinProm v).sigAt i = s.sigAt i := rfl
@[simp] theorem State.setMinProm_candAt (v : Word) (i : Nat) : (s.setMinProm v).candAt i = s.candAt i := rfl
@[simp] theorem State.setMinProm_capacity (v : Word) : (s.setMinProm v).capacity = s.capacity := rfl
@[simp] theorem State.setMinProm_peakCapacity (v : Word) : (s.setMinProm v).peakCapacity = s.peakCapacity := rfl
@[simp] theorem State.setMinProm_count (v : Word) : (s.setMinProm v).count = s.count := rfl
@[simp] theorem State.setMinProm_thresholds (v : Word) : (s.setMinProm v).thresholds = s.thresholds := rfl
@[simp] theorem State.setMinProm_length (v : Word) : (s.setMinProm v).length = s.length := rfl
@[simp] theorem State.setMinProm_lengthInvalid (v : Word) : (s.setMinProm v).lengthInvalid = s.lengthInvalid := rfl
@[simp] theorem State.setMinProm_lengthTooLarge (v : Word) : (s.setMinProm v).lengthTooLarge = s.lengthTooLarge := rfl
@[simp] theorem State.setMinProm_lengthTooSmall (v : Word) : (s.setMinProm v).lengthTooSmall = s.lengthTooSmall := rfl
@[simp] theorem State.setMinProm_promOrZero (v : Word) (i : Nat) : (s.setMinProm v).promOrZero i = s.promOrZero i := rfl

/-! ## `State.setMinGrad` -/

@[simp] theorem State.setMinGrad_regs (v : Word) : (s.setMinGrad v).regs = s.regs := rfl
@[simp] theorem State.setMinGrad_len (v : Word) : (s.setMinGrad v).len = s.len := rfl
@[simp] theorem State.setMinGrad_minProm (v : Word) : (s.setMinGrad v).minProm = s.minProm := rfl
@[simp] theorem State.setMinGrad_minGrad (v : Word) : (s.setMinGrad v).minGrad = v := rfl
@[simp] theorem State.setMinGrad_noiseFloor (v : Word) : (s.setMinGrad v).noiseFloor = s.noiseFloor := rfl
@[simp] theorem State.setMinGrad_status (v : Word) : (s.setMinGrad v).status = s.status := rfl
@[simp] theorem State.setMinGrad_bestIdx (v : Word) : (s.setMinGrad v).bestIdx = s.bestIdx := rfl
@[simp] theorem State.setMinGrad_bestProm (v : Word) : (s.setMinGrad v).bestProm = s.bestProm := rfl
@[simp] theorem State.setMinGrad_candCount (v : Word) : (s.setMinGrad v).candCount = s.candCount := rfl
@[simp] theorem State.setMinGrad_cmdErr (v : Word) : (s.setMinGrad v).cmdErr = s.cmdErr := rfl
@[simp] theorem State.setMinGrad_params (v : Word) : (s.setMinGrad v).params = s.params := rfl
@[simp] theorem State.setMinGrad_mem (v : Word) : (s.setMinGrad v).mem = s.mem := rfl
@[simp] theorem State.setMinGrad_outq (v : Word) : (s.setMinGrad v).outq = s.outq := rfl
@[simp] theorem State.setMinGrad_port (v : Word) : (s.setMinGrad v).port = s.port := rfl
@[simp] theorem State.setMinGrad_resets (v : Word) : (s.setMinGrad v).resets = s.resets := rfl
@[simp] theorem State.setMinGrad_reg (v : Word) (r : Reg) : (s.setMinGrad v).reg r = s.reg r := rfl
@[simp] theorem State.setMinGrad_rawAt (v : Word) (i : Nat) : (s.setMinGrad v).rawAt i = s.rawAt i := rfl
@[simp] theorem State.setMinGrad_sigAt (v : Word) (i : Nat) : (s.setMinGrad v).sigAt i = s.sigAt i := rfl
@[simp] theorem State.setMinGrad_candAt (v : Word) (i : Nat) : (s.setMinGrad v).candAt i = s.candAt i := rfl
@[simp] theorem State.setMinGrad_capacity (v : Word) : (s.setMinGrad v).capacity = s.capacity := rfl
@[simp] theorem State.setMinGrad_peakCapacity (v : Word) : (s.setMinGrad v).peakCapacity = s.peakCapacity := rfl
@[simp] theorem State.setMinGrad_count (v : Word) : (s.setMinGrad v).count = s.count := rfl
@[simp] theorem State.setMinGrad_length (v : Word) : (s.setMinGrad v).length = s.length := rfl
@[simp] theorem State.setMinGrad_lengthInvalid (v : Word) : (s.setMinGrad v).lengthInvalid = s.lengthInvalid := rfl
@[simp] theorem State.setMinGrad_lengthTooLarge (v : Word) : (s.setMinGrad v).lengthTooLarge = s.lengthTooLarge := rfl
@[simp] theorem State.setMinGrad_lengthTooSmall (v : Word) : (s.setMinGrad v).lengthTooSmall = s.lengthTooSmall := rfl
@[simp] theorem State.setMinGrad_promOrZero (v : Word) (i : Nat) : (s.setMinGrad v).promOrZero i = s.promOrZero i := rfl

/-! ## `State.setNoiseFloor` -/

@[simp] theorem State.setNoiseFloor_regs (v : Word) : (s.setNoiseFloor v).regs = s.regs := rfl
@[simp] theorem State.setNoiseFloor_len (v : Word) : (s.setNoiseFloor v).len = s.len := rfl
@[simp] theorem State.setNoiseFloor_minProm (v : Word) : (s.setNoiseFloor v).minProm = s.minProm := rfl
@[simp] theorem State.setNoiseFloor_minGrad (v : Word) : (s.setNoiseFloor v).minGrad = s.minGrad := rfl
@[simp] theorem State.setNoiseFloor_noiseFloor (v : Word) : (s.setNoiseFloor v).noiseFloor = v := rfl
@[simp] theorem State.setNoiseFloor_status (v : Word) : (s.setNoiseFloor v).status = s.status := rfl
@[simp] theorem State.setNoiseFloor_bestIdx (v : Word) : (s.setNoiseFloor v).bestIdx = s.bestIdx := rfl
@[simp] theorem State.setNoiseFloor_bestProm (v : Word) : (s.setNoiseFloor v).bestProm = s.bestProm := rfl
@[simp] theorem State.setNoiseFloor_candCount (v : Word) : (s.setNoiseFloor v).candCount = s.candCount := rfl
@[simp] theorem State.setNoiseFloor_cmdErr (v : Word) : (s.setNoiseFloor v).cmdErr = s.cmdErr := rfl
@[simp] theorem State.setNoiseFloor_params (v : Word) : (s.setNoiseFloor v).params = s.params := rfl
@[simp] theorem State.setNoiseFloor_mem (v : Word) : (s.setNoiseFloor v).mem = s.mem := rfl
@[simp] theorem State.setNoiseFloor_outq (v : Word) : (s.setNoiseFloor v).outq = s.outq := rfl
@[simp] theorem State.setNoiseFloor_port (v : Word) : (s.setNoiseFloor v).port = s.port := rfl
@[simp] theorem State.setNoiseFloor_resets (v : Word) : (s.setNoiseFloor v).resets = s.resets := rfl
@[simp] theorem State.setNoiseFloor_reg (v : Word) (r : Reg) : (s.setNoiseFloor v).reg r = s.reg r := rfl
@[simp] theorem State.setNoiseFloor_rawAt (v : Word) (i : Nat) : (s.setNoiseFloor v).rawAt i = s.rawAt i := rfl
@[simp] theorem State.setNoiseFloor_sigAt (v : Word) (i : Nat) : (s.setNoiseFloor v).sigAt i = s.sigAt i := rfl
@[simp] theorem State.setNoiseFloor_candAt (v : Word) (i : Nat) : (s.setNoiseFloor v).candAt i = s.candAt i := rfl
@[simp] theorem State.setNoiseFloor_capacity (v : Word) : (s.setNoiseFloor v).capacity = s.capacity := rfl
@[simp] theorem State.setNoiseFloor_peakCapacity (v : Word) : (s.setNoiseFloor v).peakCapacity = s.peakCapacity := rfl
@[simp] theorem State.setNoiseFloor_count (v : Word) : (s.setNoiseFloor v).count = s.count := rfl
@[simp] theorem State.setNoiseFloor_length (v : Word) : (s.setNoiseFloor v).length = s.length := rfl
@[simp] theorem State.setNoiseFloor_lengthInvalid (v : Word) : (s.setNoiseFloor v).lengthInvalid = s.lengthInvalid := rfl
@[simp] theorem State.setNoiseFloor_lengthTooLarge (v : Word) : (s.setNoiseFloor v).lengthTooLarge = s.lengthTooLarge := rfl
@[simp] theorem State.setNoiseFloor_lengthTooSmall (v : Word) : (s.setNoiseFloor v).lengthTooSmall = s.lengthTooSmall := rfl
@[simp] theorem State.setNoiseFloor_promOrZero (v : Word) (i : Nat) : (s.setNoiseFloor v).promOrZero i = s.promOrZero i := rfl

/-! ## `State.setLen` -/

@[simp] theorem State.setLen_regs (v : Half) : (s.setLen v).regs = s.regs := rfl
@[simp] theorem State.setLen_len (v : Half) : (s.setLen v).len = v := rfl
@[simp] theorem State.setLen_minProm (v : Half) : (s.setLen v).minProm = s.minProm := rfl
@[simp] theorem State.setLen_minGrad (v : Half) : (s.setLen v).minGrad = s.minGrad := rfl
@[simp] theorem State.setLen_noiseFloor (v : Half) : (s.setLen v).noiseFloor = s.noiseFloor := rfl
@[simp] theorem State.setLen_status (v : Half) : (s.setLen v).status = s.status := rfl
@[simp] theorem State.setLen_bestIdx (v : Half) : (s.setLen v).bestIdx = s.bestIdx := rfl
@[simp] theorem State.setLen_bestProm (v : Half) : (s.setLen v).bestProm = s.bestProm := rfl
@[simp] theorem State.setLen_candCount (v : Half) : (s.setLen v).candCount = s.candCount := rfl
@[simp] theorem State.setLen_cmdErr (v : Half) : (s.setLen v).cmdErr = s.cmdErr := rfl
@[simp] theorem State.setLen_params (v : Half) : (s.setLen v).params = s.params := rfl
@[simp] theorem State.setLen_mem (v : Half) : (s.setLen v).mem = s.mem := rfl
@[simp] theorem State.setLen_outq (v : Half) : (s.setLen v).outq = s.outq := rfl
@[simp] theorem State.setLen_port (v : Half) : (s.setLen v).port = s.port := rfl
@[simp] theorem State.setLen_resets (v : Half) : (s.setLen v).resets = s.resets := rfl
@[simp] theorem State.setLen_reg (v : Half) (r : Reg) : (s.setLen v).reg r = s.reg r := rfl
@[simp] theorem State.setLen_rawAt (v : Half) (i : Nat) : (s.setLen v).rawAt i = s.rawAt i := rfl
@[simp] theorem State.setLen_sigAt (v : Half) (i : Nat) : (s.setLen v).sigAt i = s.sigAt i := rfl
@[simp] theorem State.setLen_candAt (v : Half) (i : Nat) : (s.setLen v).candAt i = s.candAt i := rfl
@[simp] theorem State.setLen_capacity (v : Half) : (s.setLen v).capacity = s.capacity := rfl
@[simp] theorem State.setLen_peakCapacity (v : Half) : (s.setLen v).peakCapacity = s.peakCapacity := rfl
@[simp] theorem State.setLen_count (v : Half) : (s.setLen v).count = s.count := rfl
@[simp] theorem State.setLen_thresholds (v : Half) : (s.setLen v).thresholds = s.thresholds := rfl

/-! ## `State.setBest` -/

@[simp] theorem State.setBest_regs (b : Half) (p : Word) : (s.setBest b p).regs = s.regs := rfl
@[simp] theorem State.setBest_len (b : Half) (p : Word) : (s.setBest b p).len = s.len := rfl
@[simp] theorem State.setBest_minProm (b : Half) (p : Word) : (s.setBest b p).minProm = s.minProm := rfl
@[simp] theorem State.setBest_minGrad (b : Half) (p : Word) : (s.setBest b p).minGrad = s.minGrad := rfl
@[simp] theorem State.setBest_noiseFloor (b : Half) (p : Word) : (s.setBest b p).noiseFloor = s.noiseFloor := rfl
@[simp] theorem State.setBest_status (b : Half) (p : Word) : (s.setBest b p).status = s.status := rfl
@[simp] theorem State.setBest_bestIdx (b : Half) (p : Word) : (s.setBest b p).bestIdx = b := rfl
@[simp] theorem State.setBest_bestProm (b : Half) (p : Word) : (s.setBest b p).bestProm = p := rfl
@[simp] theorem State.setBest_candCount (b : Half) (p : Word) : (s.setBest b p).candCount = s.candCount := rfl
@[simp] theorem State.setBest_cmdErr (b : Half) (p : Word) : (s.setBest b p).cmdErr = s.cmdErr := rfl
@[simp] theorem State.setBest_params (b : Half) (p : Word) : (s.setBest b p).params = s.params := rfl
@[simp] theorem State.setBest_mem (b : Half) (p : Word) : (s.setBest b p).mem = s.mem := rfl
@[simp] theorem State.setBest_outq (b : Half) (p : Word) : (s.setBest b p).outq = s.outq := rfl
@[simp] theorem State.setBest_port (b : Half) (p : Word) : (s.setBest b p).port = s.port := rfl
@[simp] theorem State.setBest_resets (b : Half) (p : Word) : (s.setBest b p).resets = s.resets := rfl
@[simp] theorem State.setBest_reg (b : Half) (p : Word) (r : Reg) : (s.setBest b p).reg r = s.reg r := rfl
@[simp] theorem State.setBest_rawAt (b : Half) (p : Word) (i : Nat) : (s.setBest b p).rawAt i = s.rawAt i := rfl
@[simp] theorem State.setBest_sigAt (b : Half) (p : Word) (i : Nat) : (s.setBest b p).sigAt i = s.sigAt i := rfl
@[simp] theorem State.setBest_candAt (b : Half) (p : Word) (i : Nat) : (s.setBest b p).candAt i = s.candAt i := rfl
@[simp] theorem State.setBest_length (b : Half) (p : Word) : (s.setBest b p).length = s.length := rfl
@[simp] theorem State.setBest_capacity (b : Half) (p : Word) : (s.setBest b p).capacity = s.capacity := rfl
@[simp] theorem State.setBest_peakCapacity (b : Half) (p : Word) : (s.setBest b p).peakCapacity = s.peakCapacity := rfl
@[simp] theorem State.setBest_count (b : Half) (p : Word) : (s.setBest b p).count = s.count := rfl
@[simp] theorem State.setBest_thresholds (b : Half) (p : Word) : (s.setBest b p).thresholds = s.thresholds := rfl
@[simp] theorem State.setBest_lengthInvalid (b : Half) (p : Word) : (s.setBest b p).lengthInvalid = s.lengthInvalid := rfl
@[simp] theorem State.setBest_lengthTooLarge (b : Half) (p : Word) : (s.setBest b p).lengthTooLarge = s.lengthTooLarge := rfl
@[simp] theorem State.setBest_lengthTooSmall (b : Half) (p : Word) : (s.setBest b p).lengthTooSmall = s.lengthTooSmall := rfl
@[simp] theorem State.setBest_promOrZero (b : Half) (p : Word) (i : Nat) : (s.setBest b p).promOrZero i = s.promOrZero i := rfl

/-! ## `State.setCandCount` -/

@[simp] theorem State.setCandCount_regs (n : Nat) : (s.setCandCount n).regs = s.regs := rfl
@[simp] theorem State.setCandCount_len (n : Nat) : (s.setCandCount n).len = s.len := rfl
@[simp] theorem State.setCandCount_minProm (n : Nat) : (s.setCandCount n).minProm = s.minProm := rfl
@[simp] theorem State.setCandCount_minGrad (n : Nat) : (s.setCandCount n).minGrad = s.minGrad := rfl
@[simp] theorem State.setCandCount_noiseFloor (n : Nat) : (s.setCandCount n).noiseFloor = s.noiseFloor := rfl
@[simp] theorem State.setCandCount_status (n : Nat) : (s.setCandCount n).status = s.status := rfl
@[simp] theorem State.setCandCount_bestIdx (n : Nat) : (s.setCandCount n).bestIdx = s.bestIdx := rfl
@[simp] theorem State.setCandCount_bestProm (n : Nat) : (s.setCandCount n).bestProm = s.bestProm := rfl
@[simp] theorem State.setCandCount_candCount (n : Nat) : (s.setCandCount n).candCount = BitVec.ofNat 16 n := rfl
@[simp] theorem State.setCandCount_cmdErr (n : Nat) : (s.setCandCount n).cmdErr = s.cmdErr := rfl
@[simp] theorem State.setCandCount_params (n : Nat) : (s.setCandCount n).params = s.params := rfl
@[simp] theorem State.setCandCount_mem (n : Nat) : (s.setCandCount n).mem = s.mem := rfl
@[simp] theorem State.setCandCount_outq (n : Nat) : (s.setCandCount n).outq = s.outq := rfl
@[simp] theorem State.setCandCount_port (n : Nat) : (s.setCandCount n).port = s.port := rfl
@[simp] theorem State.setCandCount_resets (n : Nat) : (s.setCandCount n).resets = s.resets := rfl
@[simp] theorem State.setCandCount_reg (n : Nat) (r : Reg) : (s.setCandCount n).reg r = s.reg r := rfl
@[simp] theorem State.setCandCount_rawAt (n : Nat) (i : Nat) : (s.setCandCount n).rawAt i = s.rawAt i := rfl
@[simp] theorem State.setCandCount_sigAt (n : Nat) (i : Nat) : (s.setCandCount n).sigAt i = s.sigAt i := rfl
@[simp] theorem State.setCandCount_candAt (n : Nat) (i : Nat) : (s.setCandCount n).candAt i = s.candAt i := rfl
@[simp] theorem State.setCandCount_length (n : Nat) : (s.setCandCount n).length = s.length := rfl
@[simp] theorem State.setCandCount_capacity (n : Nat) : (s.setCandCount n).capacity = s.capacity := rfl
@[simp] theorem State.setCandCount_peakCapacity (n : Nat) : (s.setCandCount n).peakCapacity = s.peakCapacity := rfl
@[simp] theorem State.setCandCount_thresholds (n : Nat) : (s.setCandCount n).thresholds = s.thresholds := rfl
@[simp] theorem State.setCandCount_lengthInvalid (n : Nat) : (s.setCandCount n).lengthInvalid = s.lengthInvalid := rfl
@[simp] theorem State.setCandCount_lengthTooLarge (n : Nat) : (s.setCandCount n).lengthTooLarge = s.lengthTooLarge := rfl
@[simp] theorem State.setCandCount_lengthTooSmall (n : Nat) : (s.setCandCount n).lengthTooSmall = s.lengthTooSmall := rfl
@[simp] theorem State.setCandCount_promOrZero (n : Nat) (i : Nat) : (s.setCandCount n).promOrZero i = s.promOrZero i := rfl

/-! ## `State.setDefaultThresholds` -/

@[simp] theorem State.setDefaultThresholds_regs : s.setDefaultThresholds.regs = s.regs := rfl
@[simp] theorem State.setDefaultThresholds_len : s.setDefaultThresholds.len = s.len := rfl
@[simp] theorem State.setDefaultThresholds_minProm : s.setDefaultThresholds.minProm = Config.defaultMinProminence := rfl
@[simp] theorem State.setDefaultThresholds_minGrad : s.setDefaultThresholds.minGrad = Config.defaultMinGradient := rfl
@[simp] theorem State.setDefaultThresholds_noiseFloor : s.setDefaultThresholds.noiseFloor = Config.defaultNoiseFloor := rfl
@[simp] theorem State.setDefaultThresholds_status : s.setDefaultThresholds.status = s.status := rfl
@[simp] theorem State.setDefaultThresholds_bestIdx : s.setDefaultThresholds.bestIdx = s.bestIdx := rfl
@[simp] theorem State.setDefaultThresholds_bestProm : s.setDefaultThresholds.bestProm = s.bestProm := rfl
@[simp] theorem State.setDefaultThresholds_candCount : s.setDefaultThresholds.candCount = s.candCount := rfl
@[simp] theorem State.setDefaultThresholds_cmdErr : s.setDefaultThresholds.cmdErr = s.cmdErr := rfl
@[simp] theorem State.setDefaultThresholds_params : s.setDefaultThresholds.params = s.params := rfl
@[simp] theorem State.setDefaultThresholds_mem : s.setDefaultThresholds.mem = s.mem := rfl
@[simp] theorem State.setDefaultThresholds_outq : s.setDefaultThresholds.outq = s.outq := rfl
@[simp] theorem State.setDefaultThresholds_port : s.setDefaultThresholds.port = s.port := rfl
@[simp] theorem State.setDefaultThresholds_resets : s.setDefaultThresholds.resets = s.resets := rfl
@[simp] theorem State.setDefaultThresholds_reg (r : Reg) : s.setDefaultThresholds.reg r = s.reg r := rfl
@[simp] theorem State.setDefaultThresholds_rawAt (i : Nat) : s.setDefaultThresholds.rawAt i = s.rawAt i := rfl
@[simp] theorem State.setDefaultThresholds_sigAt (i : Nat) : s.setDefaultThresholds.sigAt i = s.sigAt i := rfl
@[simp] theorem State.setDefaultThresholds_candAt (i : Nat) : s.setDefaultThresholds.candAt i = s.candAt i := rfl
@[simp] theorem State.setDefaultThresholds_length : s.setDefaultThresholds.length = s.length := rfl
@[simp] theorem State.setDefaultThresholds_capacity : s.setDefaultThresholds.capacity = s.capacity := rfl
@[simp] theorem State.setDefaultThresholds_peakCapacity : s.setDefaultThresholds.peakCapacity = s.peakCapacity := rfl
@[simp] theorem State.setDefaultThresholds_count : s.setDefaultThresholds.count = s.count := rfl
@[simp] theorem State.setDefaultThresholds_lengthInvalid : s.setDefaultThresholds.lengthInvalid = s.lengthInvalid := rfl
@[simp] theorem State.setDefaultThresholds_lengthTooLarge : s.setDefaultThresholds.lengthTooLarge = s.lengthTooLarge := rfl
@[simp] theorem State.setDefaultThresholds_lengthTooSmall : s.setDefaultThresholds.lengthTooSmall = s.lengthTooSmall := rfl
@[simp] theorem State.setDefaultThresholds_promOrZero (i : Nat) : s.setDefaultThresholds.promOrZero i = s.promOrZero i := rfl

/-! ## `State.sendOut` -/

@[simp] theorem State.sendOut_regs (v : Word) : (s.sendOut v).regs = s.regs := rfl
@[simp] theorem State.sendOut_len (v : Word) : (s.sendOut v).len = s.len := rfl
@[simp] theorem State.sendOut_minProm (v : Word) : (s.sendOut v).minProm = s.minProm := rfl
@[simp] theorem State.sendOut_minGrad (v : Word) : (s.sendOut v).minGrad = s.minGrad := rfl
@[simp] theorem State.sendOut_noiseFloor (v : Word) : (s.sendOut v).noiseFloor = s.noiseFloor := rfl
@[simp] theorem State.sendOut_status (v : Word) : (s.sendOut v).status = s.status := rfl
@[simp] theorem State.sendOut_bestIdx (v : Word) : (s.sendOut v).bestIdx = s.bestIdx := rfl
@[simp] theorem State.sendOut_bestProm (v : Word) : (s.sendOut v).bestProm = s.bestProm := rfl
@[simp] theorem State.sendOut_candCount (v : Word) : (s.sendOut v).candCount = s.candCount := rfl
@[simp] theorem State.sendOut_cmdErr (v : Word) : (s.sendOut v).cmdErr = s.cmdErr := rfl
@[simp] theorem State.sendOut_params (v : Word) : (s.sendOut v).params = s.params := rfl
@[simp] theorem State.sendOut_mem (v : Word) : (s.sendOut v).mem = s.mem := rfl
@[simp] theorem State.sendOut_outq (v : Word) : (s.sendOut v).outq = s.outq ++ [v] := rfl
@[simp] theorem State.sendOut_port (v : Word) : (s.sendOut v).port = s.port := rfl
@[simp] theorem State.sendOut_resets (v : Word) : (s.sendOut v).resets = s.resets := rfl
@[simp] theorem State.sendOut_reg (v : Word) (r : Reg) : (s.sendOut v).reg r = s.reg r := rfl
@[simp] theorem State.sendOut_rawAt (v : Word) (i : Nat) : (s.sendOut v).rawAt i = s.rawAt i := rfl
@[simp] theorem State.sendOut_sigAt (v : Word) (i : Nat) : (s.sendOut v).sigAt i = s.sigAt i := rfl
@[simp] theorem State.sendOut_candAt (v : Word) (i : Nat) : (s.sendOut v).candAt i = s.candAt i := rfl
@[simp] theorem State.sendOut_length (v : Word) : (s.sendOut v).length = s.length := rfl
@[simp] theorem State.sendOut_capacity (v : Word) : (s.sendOut v).capacity = s.capacity := rfl
@[simp] theorem State.sendOut_peakCapacity (v : Word) : (s.sendOut v).peakCapacity = s.peakCapacity := rfl
@[simp] theorem State.sendOut_count (v : Word) : (s.sendOut v).count = s.count := rfl
@[simp] theorem State.sendOut_thresholds (v : Word) : (s.sendOut v).thresholds = s.thresholds := rfl
@[simp] theorem State.sendOut_lengthInvalid (v : Word) : (s.sendOut v).lengthInvalid = s.lengthInvalid := rfl
@[simp] theorem State.sendOut_lengthTooLarge (v : Word) : (s.sendOut v).lengthTooLarge = s.lengthTooLarge := rfl
@[simp] theorem State.sendOut_lengthTooSmall (v : Word) : (s.sendOut v).lengthTooSmall = s.lengthTooSmall := rfl
@[simp] theorem State.sendOut_promOrZero (v : Word) (i : Nat) : (s.sendOut v).promOrZero i = s.promOrZero i := rfl

/-! ## `State.withPort` -/

@[simp] theorem State.withPort_regs (rest : List HostInput) : (s.withPort rest).regs = s.regs := rfl
@[simp] theorem State.withPort_len (rest : List HostInput) : (s.withPort rest).len = s.len := rfl
@[simp] theorem State.withPort_minProm (rest : List HostInput) : (s.withPort rest).minProm = s.minProm := rfl
@[simp] theorem State.withPort_minGrad (rest : List HostInput) : (s.withPort rest).minGrad = s.minGrad := rfl
@[simp] theorem State.withPort_noiseFloor (rest : List HostInput) : (s.withPort rest).noiseFloor = s.noiseFloor := rfl
@[simp] theorem State.withPort_status (rest : List HostInput) : (s.withPort rest).status = s.status := rfl
@[simp] theorem State.withPort_bestIdx (rest : List HostInput) : (s.withPort rest).bestIdx = s.bestIdx := rfl
@[simp] theorem State.withPort_bestProm (rest : List HostInput) : (s.withPort rest).bestProm = s.bestProm := rfl
@[simp] theorem State.withPort_candCount (rest : List HostInput) : (s.withPort rest).candCount = s.candCount := rfl
@[simp] theorem State.withPort_cmdErr (rest : List HostInput) : (s.withPort rest).cmdErr = s.cmdErr := rfl
@[simp] theorem State.withPort_params (rest : List HostInput) : (s.withPort rest).params = s.params := rfl
@[simp] theorem State.withPort_mem (rest : List HostInput) : (s.withPort rest).mem = s.mem := rfl
@[simp] theorem State.withPort_outq (rest : List HostInput) : (s.withPort rest).outq = s.outq := rfl
@[simp] theorem State.withPort_port (rest : List HostInput) : (s.withPort rest).port = rest := rfl
@[simp] theorem State.withPort_resets (rest : List HostInput) : (s.withPort rest).resets = s.resets := rfl
@[simp] theorem State.withPort_reg (rest : List HostInput) (r : Reg) : (s.withPort rest).reg r = s.reg r := rfl
@[simp] theorem State.withPort_rawAt (rest : List HostInput) (i : Nat) : (s.withPort rest).rawAt i = s.rawAt i := rfl
@[simp] theorem State.withPort_sigAt (rest : List HostInput) (i : Nat) : (s.withPort rest).sigAt i = s.sigAt i := rfl
@[simp] theorem State.withPort_candAt (rest : List HostInput) (i : Nat) : (s.withPort rest).candAt i = s.candAt i := rfl
@[simp] theorem State.withPort_length (rest : List HostInput) : (s.withPort rest).length = s.length := rfl
@[simp] theorem State.withPort_capacity (rest : List HostInput) : (s.withPort rest).capacity = s.capacity := rfl
@[simp] theorem State.withPort_peakCapacity (rest : List HostInput) : (s.withPort rest).peakCapacity = s.peakCapacity := rfl
@[simp] theorem State.withPort_count (rest : List HostInput) : (s.withPort rest).count = s.count := rfl
@[simp] theorem State.withPort_thresholds (rest : List HostInput) : (s.withPort rest).thresholds = s.thresholds := rfl
@[simp] theorem State.withPort_lengthInvalid (rest : List HostInput) : (s.withPort rest).lengthInvalid = s.lengthInvalid := rfl
@[simp] theorem State.withPort_lengthTooLarge (rest : List HostInput) : (s.withPort rest).lengthTooLarge = s.lengthTooLarge := rfl
@[simp] theorem State.withPort_lengthTooSmall (rest : List HostInput) : (s.withPort rest).lengthTooSmall = s.lengthTooSmall := rfl
@[simp] theorem State.withPort_promOrZero (rest : List HostInput) (i : Nat) : (s.withPort rest).promOrZero i = s.promOrZero i := rfl

/-! ## `State.convert` -/

@[simp] theorem State.convert_regs : s.convert.regs = s.regs := rfl
@[simp] theorem State.convert_len : s.convert.len = s.len := rfl
@[simp] theorem State.convert_minProm : s.convert.minProm = s.minProm := rfl
@[simp] theorem State.convert_minGrad : s.convert.minGrad = s.minGrad := rfl
@[simp] theorem State.convert_noiseFloor : s.convert.noiseFloor = s.noiseFloor := rfl
@[simp] theorem State.convert_status : s.convert.status = s.status := rfl
@[simp] theorem State.convert_bestIdx : s.convert.bestIdx = s.bestIdx := rfl
@[simp] theorem State.convert_bestProm : s.convert.bestProm = s.bestProm := rfl
@[simp] theorem State.convert_candCount : s.convert.candCount = s.candCount := rfl
@[simp] theorem State.convert_cmdErr : s.convert.cmdErr = s.cmdErr := rfl
@[simp] theorem State.convert_params : s.convert.params = s.params := rfl
@[simp] theorem State.convert_outq : s.convert.outq = s.outq := rfl
@[simp] theorem State.convert_port : s.convert.port = s.port := rfl
@[simp] theorem State.convert_resets : s.convert.resets = s.resets := rfl
@[simp] theorem State.convert_mem_raw : s.convert.mem.raw = s.mem.raw := rfl
@[simp] theorem State.convert_mem_sig : s.convert.mem.sig = convertCells s.rawAt s.length s.mem.sig := rfl
@[simp] theorem State.convert_mem_cand : s.convert.mem.cand = s.mem.cand := rfl
@[simp] theorem State.convert_reg (r : Reg) : s.convert.reg r = s.reg r := rfl
@[simp] theorem State.convert_rawAt (i : Nat) : s.convert.rawAt i = s.rawAt i := rfl
@[simp] theorem State.convert_candAt (i : Nat) : s.convert.candAt i = s.candAt i := rfl
@[simp] theorem State.convert_length : s.convert.length = s.length := rfl
@[simp] theorem State.convert_capacity : s.convert.capacity = s.capacity := rfl
@[simp] theorem State.convert_peakCapacity : s.convert.peakCapacity = s.peakCapacity := rfl
@[simp] theorem State.convert_count : s.convert.count = s.count := rfl
@[simp] theorem State.convert_thresholds : s.convert.thresholds = s.thresholds := rfl
@[simp] theorem State.convert_lengthInvalid : s.convert.lengthInvalid = s.lengthInvalid := rfl
@[simp] theorem State.convert_lengthTooLarge : s.convert.lengthTooLarge = s.lengthTooLarge := rfl
@[simp] theorem State.convert_lengthTooSmall : s.convert.lengthTooSmall = s.lengthTooSmall := rfl

/-! ## `State.detect` -/

@[simp] theorem State.detect_regs : s.detect.regs = s.regs := rfl
@[simp] theorem State.detect_len : s.detect.len = s.len := rfl
@[simp] theorem State.detect_minProm : s.detect.minProm = s.minProm := rfl
@[simp] theorem State.detect_minGrad : s.detect.minGrad = s.minGrad := rfl
@[simp] theorem State.detect_noiseFloor : s.detect.noiseFloor = s.noiseFloor := rfl
@[simp] theorem State.detect_status : s.detect.status = s.status := rfl
@[simp] theorem State.detect_bestIdx : s.detect.bestIdx = s.bestIdx := rfl
@[simp] theorem State.detect_bestProm : s.detect.bestProm = s.bestProm := rfl
@[simp] theorem State.detect_cmdErr : s.detect.cmdErr = s.cmdErr := rfl
@[simp] theorem State.detect_params : s.detect.params = s.params := rfl
@[simp] theorem State.detect_outq : s.detect.outq = s.outq := rfl
@[simp] theorem State.detect_port : s.detect.port = s.port := rfl
@[simp] theorem State.detect_resets : s.detect.resets = s.resets := rfl
@[simp] theorem State.detect_mem_raw : s.detect.mem.raw = s.mem.raw := rfl
@[simp] theorem State.detect_mem_sig : s.detect.mem.sig = s.mem.sig := rfl
@[simp] theorem State.detect_reg (r : Reg) : s.detect.reg r = s.reg r := rfl
@[simp] theorem State.detect_rawAt (i : Nat) : s.detect.rawAt i = s.rawAt i := rfl
@[simp] theorem State.detect_sigAt (i : Nat) : s.detect.sigAt i = s.sigAt i := rfl
@[simp] theorem State.detect_length : s.detect.length = s.length := rfl
@[simp] theorem State.detect_capacity : s.detect.capacity = s.capacity := rfl
@[simp] theorem State.detect_peakCapacity : s.detect.peakCapacity = s.peakCapacity := rfl
@[simp] theorem State.detect_thresholds : s.detect.thresholds = s.thresholds := rfl
@[simp] theorem State.detect_lengthInvalid : s.detect.lengthInvalid = s.lengthInvalid := rfl
@[simp] theorem State.detect_lengthTooLarge : s.detect.lengthTooLarge = s.lengthTooLarge := rfl
@[simp] theorem State.detect_lengthTooSmall : s.detect.lengthTooSmall = s.lengthTooSmall := rfl
@[simp] theorem State.detect_promOrZero (i : Nat) : s.detect.promOrZero i = s.promOrZero i := rfl

/-! ## `State.applyReset` -/

@[simp] theorem State.applyReset_regs : s.applyReset.regs = State.reset.regs := rfl
@[simp] theorem State.applyReset_len : s.applyReset.len = 0 := rfl
@[simp] theorem State.applyReset_minProm : s.applyReset.minProm = Config.defaultMinProminence := rfl
@[simp] theorem State.applyReset_minGrad : s.applyReset.minGrad = Config.defaultMinGradient := rfl
@[simp] theorem State.applyReset_noiseFloor : s.applyReset.noiseFloor = Config.defaultNoiseFloor := rfl
@[simp] theorem State.applyReset_status : s.applyReset.status = .none := rfl
@[simp] theorem State.applyReset_bestIdx : s.applyReset.bestIdx = 0 := rfl
@[simp] theorem State.applyReset_bestProm : s.applyReset.bestProm = 0 := rfl
@[simp] theorem State.applyReset_candCount : s.applyReset.candCount = 0 := rfl
@[simp] theorem State.applyReset_cmdErr : s.applyReset.cmdErr = .none := rfl
@[simp] theorem State.applyReset_params : s.applyReset.params = s.params := rfl
@[simp] theorem State.applyReset_mem : s.applyReset.mem = State.reset.mem := rfl
@[simp] theorem State.applyReset_outq : s.applyReset.outq = [] := rfl
@[simp] theorem State.applyReset_port : s.applyReset.port = s.port := rfl
@[simp] theorem State.applyReset_resets : s.applyReset.resets = s.resets + 1 := rfl
@[simp] theorem State.applyReset_capacity : s.applyReset.capacity = s.capacity := rfl
@[simp] theorem State.applyReset_peakCapacity : s.applyReset.peakCapacity = s.peakCapacity := rfl

/-! ## `State.raiseCmdErr` -/

@[simp] theorem State.raiseCmdErr_regs (code : CmdErr) : (s.raiseCmdErr code).regs = s.regs := by unfold State.raiseCmdErr; split <;> rfl
@[simp] theorem State.raiseCmdErr_len (code : CmdErr) : (s.raiseCmdErr code).len = s.len := by unfold State.raiseCmdErr; split <;> rfl
@[simp] theorem State.raiseCmdErr_minProm (code : CmdErr) : (s.raiseCmdErr code).minProm = s.minProm := by unfold State.raiseCmdErr; split <;> rfl
@[simp] theorem State.raiseCmdErr_minGrad (code : CmdErr) : (s.raiseCmdErr code).minGrad = s.minGrad := by unfold State.raiseCmdErr; split <;> rfl
@[simp] theorem State.raiseCmdErr_noiseFloor (code : CmdErr) : (s.raiseCmdErr code).noiseFloor = s.noiseFloor := by unfold State.raiseCmdErr; split <;> rfl
@[simp] theorem State.raiseCmdErr_status (code : CmdErr) : (s.raiseCmdErr code).status = s.status := by unfold State.raiseCmdErr; split <;> rfl
@[simp] theorem State.raiseCmdErr_bestIdx (code : CmdErr) : (s.raiseCmdErr code).bestIdx = s.bestIdx := by unfold State.raiseCmdErr; split <;> rfl
@[simp] theorem State.raiseCmdErr_bestProm (code : CmdErr) : (s.raiseCmdErr code).bestProm = s.bestProm := by unfold State.raiseCmdErr; split <;> rfl
@[simp] theorem State.raiseCmdErr_candCount (code : CmdErr) : (s.raiseCmdErr code).candCount = s.candCount := by unfold State.raiseCmdErr; split <;> rfl
@[simp] theorem State.raiseCmdErr_params (code : CmdErr) : (s.raiseCmdErr code).params = s.params := by unfold State.raiseCmdErr; split <;> rfl
@[simp] theorem State.raiseCmdErr_mem (code : CmdErr) : (s.raiseCmdErr code).mem = s.mem := by unfold State.raiseCmdErr; split <;> rfl
@[simp] theorem State.raiseCmdErr_outq (code : CmdErr) : (s.raiseCmdErr code).outq = s.outq := by unfold State.raiseCmdErr; split <;> rfl
@[simp] theorem State.raiseCmdErr_port (code : CmdErr) : (s.raiseCmdErr code).port = s.port := by unfold State.raiseCmdErr; split <;> rfl
@[simp] theorem State.raiseCmdErr_resets (code : CmdErr) : (s.raiseCmdErr code).resets = s.resets := by unfold State.raiseCmdErr; split <;> rfl
@[simp] theorem State.raiseCmdErr_reg (code : CmdErr) (r : Reg) : (s.raiseCmdErr code).reg r = s.reg r := by unfold State.raiseCmdErr; split <;> rfl
@[simp] theorem State.raiseCmdErr_rawAt (code : CmdErr) (i : Nat) : (s.raiseCmdErr code).rawAt i = s.rawAt i := by unfold State.raiseCmdErr; split <;> rfl
@[simp] theorem State.raiseCmdErr_sigAt (code : CmdErr) (i : Nat) : (s.raiseCmdErr code).sigAt i = s.sigAt i := by unfold State.raiseCmdErr; split <;> rfl
@[simp] theorem State.raiseCmdErr_candAt (code : CmdErr) (i : Nat) : (s.raiseCmdErr code).candAt i = s.candAt i := by unfold State.raiseCmdErr; split <;> rfl
@[simp] theorem State.raiseCmdErr_length (code : CmdErr) : (s.raiseCmdErr code).length = s.length := by unfold State.raiseCmdErr; split <;> rfl
@[simp] theorem State.raiseCmdErr_capacity (code : CmdErr) : (s.raiseCmdErr code).capacity = s.capacity := by unfold State.raiseCmdErr; split <;> rfl
@[simp] theorem State.raiseCmdErr_peakCapacity (code : CmdErr) : (s.raiseCmdErr code).peakCapacity = s.peakCapacity := by unfold State.raiseCmdErr; split <;> rfl
@[simp] theorem State.raiseCmdErr_count (code : CmdErr) : (s.raiseCmdErr code).count = s.count := by unfold State.raiseCmdErr; split <;> rfl
@[simp] theorem State.raiseCmdErr_thresholds (code : CmdErr) : (s.raiseCmdErr code).thresholds = s.thresholds := by unfold State.raiseCmdErr; split <;> rfl
@[simp] theorem State.raiseCmdErr_lengthInvalid (code : CmdErr) : (s.raiseCmdErr code).lengthInvalid = s.lengthInvalid := by unfold State.raiseCmdErr; split <;> rfl
@[simp] theorem State.raiseCmdErr_lengthTooLarge (code : CmdErr) : (s.raiseCmdErr code).lengthTooLarge = s.lengthTooLarge := by unfold State.raiseCmdErr; split <;> rfl
@[simp] theorem State.raiseCmdErr_lengthTooSmall (code : CmdErr) : (s.raiseCmdErr code).lengthTooSmall = s.lengthTooSmall := by unfold State.raiseCmdErr; split <;> rfl
@[simp] theorem State.raiseCmdErr_promOrZero (code : CmdErr) (i : Nat) : (s.raiseCmdErr code).promOrZero i = s.promOrZero i := by unfold State.raiseCmdErr; split <;> rfl

/-! ## `State.recordBest` -/

@[simp] theorem State.recordBest_regs (b : Best) : (s.recordBest b).regs = s.regs := by unfold State.recordBest; split <;> rfl
@[simp] theorem State.recordBest_len (b : Best) : (s.recordBest b).len = s.len := by unfold State.recordBest; split <;> rfl
@[simp] theorem State.recordBest_minProm (b : Best) : (s.recordBest b).minProm = s.minProm := by unfold State.recordBest; split <;> rfl
@[simp] theorem State.recordBest_minGrad (b : Best) : (s.recordBest b).minGrad = s.minGrad := by unfold State.recordBest; split <;> rfl
@[simp] theorem State.recordBest_noiseFloor (b : Best) : (s.recordBest b).noiseFloor = s.noiseFloor := by unfold State.recordBest; split <;> rfl
@[simp] theorem State.recordBest_candCount (b : Best) : (s.recordBest b).candCount = s.candCount := by unfold State.recordBest; split <;> rfl
@[simp] theorem State.recordBest_cmdErr (b : Best) : (s.recordBest b).cmdErr = s.cmdErr := by unfold State.recordBest; split <;> rfl
@[simp] theorem State.recordBest_params (b : Best) : (s.recordBest b).params = s.params := by unfold State.recordBest; split <;> rfl
@[simp] theorem State.recordBest_mem (b : Best) : (s.recordBest b).mem = s.mem := by unfold State.recordBest; split <;> rfl
@[simp] theorem State.recordBest_outq (b : Best) : (s.recordBest b).outq = s.outq := by unfold State.recordBest; split <;> rfl
@[simp] theorem State.recordBest_port (b : Best) : (s.recordBest b).port = s.port := by unfold State.recordBest; split <;> rfl
@[simp] theorem State.recordBest_resets (b : Best) : (s.recordBest b).resets = s.resets := by unfold State.recordBest; split <;> rfl
@[simp] theorem State.recordBest_reg (b : Best) (r : Reg) : (s.recordBest b).reg r = s.reg r := by unfold State.recordBest; split <;> rfl
@[simp] theorem State.recordBest_rawAt (b : Best) (i : Nat) : (s.recordBest b).rawAt i = s.rawAt i := by unfold State.recordBest; split <;> rfl
@[simp] theorem State.recordBest_sigAt (b : Best) (i : Nat) : (s.recordBest b).sigAt i = s.sigAt i := by unfold State.recordBest; split <;> rfl
@[simp] theorem State.recordBest_candAt (b : Best) (i : Nat) : (s.recordBest b).candAt i = s.candAt i := by unfold State.recordBest; split <;> rfl
@[simp] theorem State.recordBest_length (b : Best) : (s.recordBest b).length = s.length := by unfold State.recordBest; split <;> rfl
@[simp] theorem State.recordBest_capacity (b : Best) : (s.recordBest b).capacity = s.capacity := by unfold State.recordBest; split <;> rfl
@[simp] theorem State.recordBest_peakCapacity (b : Best) : (s.recordBest b).peakCapacity = s.peakCapacity := by unfold State.recordBest; split <;> rfl
@[simp] theorem State.recordBest_count (b : Best) : (s.recordBest b).count = s.count := by unfold State.recordBest; split <;> rfl
@[simp] theorem State.recordBest_thresholds (b : Best) : (s.recordBest b).thresholds = s.thresholds := by unfold State.recordBest; split <;> rfl
@[simp] theorem State.recordBest_lengthInvalid (b : Best) : (s.recordBest b).lengthInvalid = s.lengthInvalid := by unfold State.recordBest; split <;> rfl
@[simp] theorem State.recordBest_lengthTooLarge (b : Best) : (s.recordBest b).lengthTooLarge = s.lengthTooLarge := by unfold State.recordBest; split <;> rfl
@[simp] theorem State.recordBest_lengthTooSmall (b : Best) : (s.recordBest b).lengthTooSmall = s.lengthTooSmall := by unfold State.recordBest; split <;> rfl
@[simp] theorem State.recordBest_promOrZero (b : Best) (i : Nat) : (s.recordBest b).promOrZero i = s.promOrZero i := by unfold State.recordBest; split <;> rfl

end Sys2Proof.Machine
end

