-- ==== Sys2Proof/Laws/Ops.lean ====
section
/-! SUPPORT. What each shared operation over registers, cells and command errors does, said once. -/

namespace Sys2Proof.Machine

/-! ## Scalar registers -/

@[simp] theorem Regs.get_set_self (x : Regs) (r : Reg) (v : Word) : (x.set r v).get r = v := by cases r <;> rfl

@[simp] theorem Regs.get_set_ne (x : Regs) {r r' : Reg} (v : Word) (h : r' ≠ r) : (x.set r v).get r' = x.get r' := by
  cases r <;> cases r' <;> first | rfl | exact absurd rfl h

/-- A register write, read back through the same operation. -/
theorem State.setReg_reg (s : State) (r r' : Reg) (v : Word) :
    (s.setReg r v).reg r' = if r' = r then v else s.reg r' := by
  split
  · next h => subst h; exact Regs.get_set_self ..
  · next h => exact Regs.get_set_ne _ _ h

/-! ## Cells -/

variable {w : Nat}

@[simp] theorem Cells.get?_nil (i : Nat) : Cells.get? ([] : Cells w) i = none := rfl

@[simp] theorem Cells.get?_set_self (m : Cells w) (i : Nat) (v : BitVec w) : (m.set i v).get? i = some v := by
  induction m with
  | nil => simp [Cells.set, Cells.get?]
  | cons e rest ih =>
    obtain ⟨j, u⟩ := e
    simp only [Cells.set]
    split
    · simp [Cells.get?]
    · split
      · simp [Cells.get?]
      · simp only [Cells.get?]
        rw [if_neg ‹_›, if_neg ‹_›]
        exact ih

@[simp] theorem Cells.get?_set_ne (m : Cells w) {i k : Nat} (v : BitVec w) (h : k ≠ i) : (m.set i v).get? k = m.get? k := by
  induction m with
  | nil => simp [Cells.set, Cells.get?, h]
  | cons e rest ih =>
    obtain ⟨j, u⟩ := e
    simp only [Cells.set]
    split
    · simp only [Cells.get?]
      split
      · rw [if_pos (by omega)]
      · rfl
    · split
      · subst_vars
        simp only [Cells.get?, if_neg h]
      · simp only [Cells.get?]
        split <;> [rfl; (split <;> [rfl; exact ih])]

/-- A read after a write: the written cell gives the value, every other cell what it gave before. -/
theorem Cells.get?_set (m : Cells w) (i k : Nat) (v : BitVec w) :
    (m.set i v).get? k = if k = i then some v else m.get? k := by
  split
  · next h => subst h; exact Cells.get?_set_self ..
  · next h => exact Cells.get?_set_ne _ _ h

/-- Writing the value a listed cell already holds changes nothing. -/
theorem Cells.set_of_get? (m : Cells w) (i : Nat) (v : BitVec w) (h : m.get? i = some v) : m.set i v = m := by
  induction m with
  | nil => simp at h
  | cons e rest ih =>
    obtain ⟨j, u⟩ := e
    simp only [Cells.get?] at h
    simp only [Cells.set]
    split at h
    · simp at h
    · next h1 =>
      split at h
      · next h2 => subst h2; simp_all
      · next h2 => rw [if_neg h1, if_neg h2, ih h]

theorem Cells.rising_cons_iff (i : Nat) (v : BitVec w) (m : Cells w) :
    Cells.rising ((i, v) :: m) = true ↔ (∀ j u rest, m = (j, u) :: rest → i < j) ∧ m.rising = true := by
  cases m with
  | nil => simp [Cells.rising]
  | cons e rest =>
    obtain ⟨j, u⟩ := e
    simp only [Cells.rising, Bool.and_eq_true, decide_eq_true_eq, List.cons.injEq, Prod.mk.injEq]
    constructor
    · rintro ⟨h, h'⟩
      exact ⟨by rintro _ _ _ ⟨⟨rfl, _⟩, _⟩; exact h, h'⟩
    · rintro ⟨h, h'⟩
      exact ⟨h j u rest ⟨⟨rfl, rfl⟩, rfl⟩, h'⟩

/-- A write keeps the canonical form. -/
theorem Cells.rising_set (m : Cells w) (i : Nat) (v : BitVec w) (h : m.rising = true) : (m.set i v).rising = true := by
  induction m with
  | nil => rfl
  | cons e rest ih =>
    obtain ⟨j, u⟩ := e
    simp only [Cells.set]
    split
    · next hij => exact (Cells.rising_cons_iff ..).2 ⟨by rintro _ _ _ ⟨⟨⟩, _⟩; exact hij, h⟩
    · next hij =>
      obtain ⟨hlt, hr⟩ := (Cells.rising_cons_iff ..).1 h
      split
      · next heq => subst heq; exact (Cells.rising_cons_iff ..).2 ⟨hlt, hr⟩
      · next hne =>
        refine (Cells.rising_cons_iff ..).2 ⟨?_, ih hr⟩
        intro k u' rest' hk
        cases rest with
        | nil =>
          simp only [Cells.set, List.cons.injEq, Prod.mk.injEq] at hk
          omega
        | cons e' rest'' =>
          obtain ⟨j', u''⟩ := e'
          have := hlt j' u'' rest'' rfl
          simp only [Cells.set] at hk
          split at hk
          · simp only [List.cons.injEq, Prod.mk.injEq] at hk; omega
          · split at hk <;> simp only [List.cons.injEq, Prod.mk.injEq] at hk <;> omega


/-! ## Reads after writes, through the state -/

theorem State.writeRaw_rawAt (s : State) (i k : Nat) (v : Half) :
    (s.writeRaw i v).rawAt k = if k = i then v else s.rawAt k := by
  simp only [State.rawAt, State.writeRaw_mem_raw, State.writeRaw_resets, Cells.get?_set]
  split <;> rfl

theorem State.writeSig_sigAt (s : State) (i k : Nat) (v : Word) :
    (s.writeSig i v).sigAt k = if k = i then v else s.sigAt k := by
  simp only [State.sigAt, State.writeSig_mem_sig, State.writeSig_resets, Cells.get?_set]
  split <;> rfl

/-! ## The canonical form of the memory -/

theorem Memory.wf_iff (m : Memory) :
    m.wf = true ↔ m.raw.rising = true ∧ m.sig.rising = true ∧ m.cand.rising = true := by
  simp [Memory.wf, and_assoc]

theorem State.writeRaw_wf (s : State) (i : Nat) (v : Half) (h : s.mem.wf = true) : (s.writeRaw i v).mem.wf = true := by
  rw [Memory.wf_iff] at *
  exact ⟨Cells.rising_set _ _ _ h.1, h.2⟩

theorem State.writeSig_wf (s : State) (i : Nat) (v : Word) (h : s.mem.wf = true) : (s.writeSig i v).mem.wf = true := by
  rw [Memory.wf_iff] at *
  exact ⟨h.1, Cells.rising_set _ _ _ h.2.1, h.2.2⟩

theorem State.reset_mem_wf : State.reset.mem.wf = true := rfl

/-! ## CSR numbers (10_state.md R25) -/

@[simp] theorem Csr.ofNum_num (c : Csr) : Csr.ofNum c.num = some c := by cases c <;> rfl

theorem Csr.num_of_ofNum {n : Half} {c : Csr} (h : Csr.ofNum n = some c) : c.num = n := by
  unfold Csr.ofNum at h
  split at h <;> simp only [Option.some.injEq, reduceCtorEq] at h <;> subst h <;> apply BitVec.eq_of_toNat_eq <;>
    exact Eq.symm ‹_›

/-- The numbers 0x000A to 0xFFFF name no CSR. -/
theorem Csr.ofNum_unassigned {n : Half} (h : 0x0009 < n.toNat) : Csr.ofNum n = none := by
  cases hc : Csr.ofNum n with
  | none => rfl
  | some c =>
    rw [← Csr.num_of_ofNum hc] at h
    cases c <;> exact absurd h (by decide)

/-- The numbers 0x0000 to 0x0009 each name a CSR. -/
theorem Csr.ofNum_assigned {n : Half} (h : n.toNat ≤ 0x0009) : ∃ c, Csr.ofNum n = some c := by
  have e : n = BitVec.ofNat 16 n.toNat := by simp
  rw [e]
  generalize n.toNat = m at h
  interval_cases m <;> exact ⟨_, rfl⟩

/-- A CSR write is refused above 0x0003: the CSR is read-only or unassigned (44_system.md R187). -/
theorem State.writeCsr_refused (s : State) {n : Half} (v : Word) (h : 0x0003 < n.toNat) :
    ((Csr.ofNum n).bind fun c => s.writeCsr c v) = none := by
  cases hc : Csr.ofNum n with
  | none => rfl
  | some c =>
    rw [← Csr.num_of_ofNum hc] at h
    cases c <;> first | rfl | exact absurd h (by decide)

/-- A number that names no CSR is above 0x0009. -/
theorem Csr.ofNum_none {n : Half} (h : Csr.ofNum n = none) : 0x0009 < n.toNat := by
  by_contra hn
  obtain ⟨c, hc⟩ := Csr.ofNum_assigned (Nat.not_lt.1 hn)
  rw [h] at hc
  cases hc

/-- The numbers 0x0000 to 0x0003. -/
theorem Csr.num_le_three {n : Half} (h : n.toNat ≤ 0x0003) : n = 0 ∨ n = 1 ∨ n = 2 ∨ n = 3 := by
  have e : n = BitVec.ofNat 16 n.toNat := by simp
  rw [e]
  generalize n.toNat = m at h
  interval_cases m <;> simp

/-- A number `CSRW` refuses is above 0x0003. -/
theorem State.writeCsr_none {s : State} {n : Half} {v : Word}
    (h : ((Csr.ofNum n).bind fun c => s.writeCsr c v) = none) : 0x0003 < n.toNat := by
  by_contra hn
  rcases Csr.num_le_three (Nat.not_lt.1 hn) with rfl | rfl | rfl | rfl <;> exact absurd h (Option.some_ne_none _)

/-! ## Command errors -/

/-- `CMDERR` keeps its first code (10_state.md R35). -/
theorem State.raiseCmdErr_cmdErr (s : State) (code : CmdErr) :
    (s.raiseCmdErr code).cmdErr = if s.cmdErr = .none then code else s.cmdErr := by
  unfold State.raiseCmdErr
  cases h : s.cmdErr <;> simp [h]

/-- Recording an error changes no CSR but `CMDERR`. -/
theorem State.raiseCmdErr_csr (s : State) (code : CmdErr) (c : Csr) (h : c ≠ .cmdErr) :
    (s.raiseCmdErr code).csr c = s.csr c := by
  cases c <;> first | exact absurd rfl h | simp [State.csr]

/-- Recording an error changes nothing but `CMDERR` (60_exceptions.md R205). -/
theorem State.raiseCmdErr_eq (s : State) (code : CmdErr) :
    s.raiseCmdErr code = { s with cmdErr := if s.cmdErr = .none then code else s.cmdErr } := by
  obtain ⟨_, _, _, _, _, _, _, _, _, e, _, _, _, _, _⟩ := s
  cases e <;> rfl

end Sys2Proof.Machine
end

