-- ==== Sys2Proof/Laws/Arith.lean ====
section
/-! SUPPORT. The arithmetic primitives, said through integers: each lemma gives the signed (or unsigned) value of a result. -/

namespace Sys2Proof.Machine

theorem word_toInt_bounds (a : Word) : -2147483648 ≤ a.toInt ∧ a.toInt ≤ 2147483647 := by
  have h1 := BitVec.toInt_lt (x := a)
  have h2 := BitVec.le_toInt (x := a)
  norm_num at h1 h2
  omega

theorem half_toInt_bounds (a : Half) : -32768 ≤ a.toInt ∧ a.toInt ≤ 32767 := by
  have h1 := BitVec.toInt_lt (x := a)
  have h2 := BitVec.le_toInt (x := a)
  norm_num at h1 h2
  omega

theorem toInt_ofInt_word {n : Int} (h1 : -2147483648 ≤ n) (h2 : n ≤ 2147483647) : (BitVec.ofInt 32 n).toInt = n := by
  rw [BitVec.toInt_ofInt, Int.bmod_def]
  norm_num
  omega

theorem toInt_ofInt_half {n : Int} (h1 : -32768 ≤ n) (h2 : n ≤ 32767) : (BitVec.ofInt 16 n).toInt = n := by
  rw [BitVec.toInt_ofInt, Int.bmod_def]
  norm_num
  omega

/-- `sat32` clamps to the signed 32-bit range (00_scope.md R10). -/
theorem sat32_toInt (n : Int) : (sat32 n).toInt = max (-2147483648) (min 2147483647 n) := by
  unfold sat32
  split
  · rw [show (0x80000000 : Word).toInt = -2147483648 by decide]; omega
  · split
    · rw [show (0x7FFFFFFF : Word).toInt = 2147483647 by decide]; omega
    · rw [toInt_ofInt_word (by omega) (by omega)]; omega

/-- `sat16` clamps to the signed 16-bit range (00_scope.md R10). -/
theorem sat16_toInt (n : Int) : (sat16 n).toInt = max (-32768) (min 32767 n) := by
  unfold sat16
  split
  · rw [show (0x8000 : Half).toInt = -32768 by decide]; omega
  · split
    · rw [show (0x7FFF : Half).toInt = 32767 by decide]; omega
    · rw [toInt_ofInt_half (by omega) (by omega)]; omega

theorem asr_one (n : Int) : asr n 1 = n / 2 := rfl

theorem asr_sixteen (n : Int) : asr n 16 = n / 65536 := by norm_num [asr]

theorem tofix_toInt (v : Half) : (tofix v).toInt = v.toInt * 65536 := by
  have := half_toInt_bounds v
  exact toInt_ofInt_word (by omega) (by omega)

theorem fromfix_toInt (a : Word) : (fromfix a).toInt = max (-32768) (min 32767 ((a.toInt + 32768) / 65536)) := by
  rw [fromfix, sat16_toInt, asr_sixteen]

theorem satadd32_toInt (a b : Word) :
    (satadd32 a b).toInt = max (-2147483648) (min 2147483647 (a.toInt + b.toInt)) := sat32_toInt _

theorem satsub32_toInt (a b : Word) :
    (satsub32 a b).toInt = max (-2147483648) (min 2147483647 (a.toInt - b.toInt)) := sat32_toInt _

theorem satmul32_toInt (a b : Word) :
    (satmul32 a b).toInt = max (-2147483648) (min 2147483647 (a.toInt * b.toInt / 65536)) := by
  rw [satmul32, sat32_toInt, asr_sixteen]

theorem halve_toInt (a : Word) : (halve a).toInt = a.toInt / 2 := by
  have := word_toInt_bounds a
  rw [halve, asr_one]
  exact toInt_ofInt_word (by omega) (by omega)

theorem sext32_toInt (v : Half) : (sext32 v).toInt = v.toInt := by
  have := half_toInt_bounds v
  exact toInt_ofInt_word (by omega) (by omega)

theorem zext32_toNat {w : Nat} (v : BitVec w) (h : w ≤ 32) : (zext32 v).toNat = v.toNat := by
  rw [zext32, BitVec.toNat_ofNat]
  exact Nat.mod_eq_of_lt (lt_of_lt_of_le v.isLt (Nat.pow_le_pow_right (by decide) h))

theorem joinHalves_toNat (hi lo : Half) : (joinHalves hi lo).toNat = hi.toNat * 65536 + lo.toNat := by
  have h1 := hi.isLt
  have h2 := lo.isLt
  rw [joinHalves, BitVec.toNat_ofNat]
  norm_num at *
  omega

theorem highHalf_toNat (v : Word) : (highHalf v).toNat = v.toNat / 65536 := by
  have := v.isLt
  rw [highHalf, BitVec.extractLsb'_toNat, Nat.shiftRight_eq_div_pow]
  norm_num at *
  omega

theorem lowHalf_toNat (v : Word) : (lowHalf v).toNat = v.toNat % 65536 := by
  rw [lowHalf, BitVec.extractLsb'_toNat]
  norm_num

theorem signedMin_toInt (a b : Word) : (signedMin a b).toInt = min a.toInt b.toInt := by
  unfold signedMin; split <;> omega

theorem signedMax_toInt (a b : Word) : (signedMax a b).toInt = max a.toInt b.toInt := by
  unfold signedMax; split <;> omega

end Sys2Proof.Machine
end

