-- ==== Sys2Proof/Laws/Detection.lean ====
section
/-! SUPPORT. What conversion, the gradient, the detection tests and the scan do, said once each. -/

namespace Sys2Proof.Machine

/-! ## Conversion -/

/-- After conversion the first `n` cells hold the converted samples and every other cell what it held. -/
theorem convertCells_get? (R : Nat → Half) (n : Nat) (sig : Cells 32) (i : Nat) :
    (convertCells R n sig).get? i = if i < n then some (tofix (R i)) else sig.get? i := by
  induction n with
  | zero => simp [convertCells]
  | succ n ih =>
    rw [convertCells, Cells.get?_set, ih]
    by_cases h : i = n
    · simp [h]
    · simp only [h, if_false]
      split <;> split <;> first | rfl | omega

theorem convertCells_rising (R : Nat → Half) (n : Nat) (sig : Cells 32) (h : sig.rising = true) :
    (convertCells R n sig).rising = true := by
  induction n with
  | zero => exact h
  | succ n ih => exact Cells.rising_set _ _ _ ih

/-- Converting cells that already hold the converted samples changes nothing. -/
theorem convertCells_of_converted (R : Nat → Half) (n : Nat) (sig : Cells 32)
    (h : ∀ i, i < n → sig.get? i = some (tofix (R i))) : convertCells R n sig = sig := by
  induction n with
  | zero => rfl
  | succ n ih =>
    rw [convertCells, ih fun i hi => h i (by omega)]
    exact Cells.set_of_get? _ _ _ (h n (by omega))

theorem State.convert_sigAt (s : State) (i : Nat) :
    s.convert.sigAt i = if i < s.length then tofix (s.rawAt i) else s.sigAt i := by
  simp only [State.sigAt, State.convert_mem_sig, State.convert_resets, convertCells_get?]
  split <;> rfl

/-! ## The gradient and the tests -/

/-- The gradient, as an integer. -/
theorem gradient_toInt (S : Nat → Word) (L i : Nat) :
    (gradient S L i).toInt = gradientValue (fun j => (S j).toInt) L i := by
  unfold gradient gradientValue clamp32
  split
  · rw [satsub32_toInt]
  · split
    · rw [satsub32_toInt]
    · rw [halve_toInt, satsub32_toInt]

/-- The tests of R123, made with the gradients at `i - 1` and `i`. -/
def acceptsAt (t : Thresholds) (S : Nat → Word) (L i : Nat) : Bool :=
  acceptsIndex t S i (gradient S L (i - 1)) (gradient S L i)

theorem acceptsAt_iff (t : Thresholds) (S : Nat → Word) (L i : Nat) :
    acceptsAt t S L i = true ↔
      IsCandidate t.noiseFloor.toInt t.minGrad.toInt (fun j => (S j).toInt) L i := by
  simp only [acceptsAt, acceptsIndex, IsCandidate, gradient_toInt, Bool.and_eq_true, Bool.or_eq_true,
    decide_eq_true_eq, Int.natCast_natAbs, and_assoc]

/-! ## The scan -/

/-- The accepted indices among `todo` indices from `i` on, in ascending order, before any truncation. -/
def acceptedFrom (t : Thresholds) (S : Nat → Word) (L : Nat) : (todo i : Nat) → List Nat
  | 0, _ => []
  | todo + 1, i =>
    if acceptsAt t S L i then i :: acceptedFrom t S L todo (i + 1) else acceptedFrom t S L todo (i + 1)

theorem mem_acceptedFrom (t : Thresholds) (S : Nat → Word) (L todo i j : Nat) :
    j ∈ acceptedFrom t S L todo i ↔ i ≤ j ∧ j < i + todo ∧ acceptsAt t S L j = true := by
  induction todo generalizing i with
  | zero => simp [acceptedFrom]; omega
  | succ todo ih =>
    simp only [acceptedFrom]
    split
    · next h =>
      rw [List.mem_cons, ih]
      constructor
      · rintro (rfl | ⟨h1, h2, h3⟩)
        · exact ⟨le_refl _, by omega, h⟩
        · exact ⟨by omega, by omega, h3⟩
      · rintro ⟨h1, h2, h3⟩
        by_cases hj : j = i
        · exact .inl hj
        · exact .inr ⟨by omega, by omega, h3⟩
    · next h =>
      rw [ih]
      constructor
      · rintro ⟨h1, h2, h3⟩
        exact ⟨by omega, by omega, h3⟩
      · rintro ⟨h1, h2, h3⟩
        have : j ≠ i := by rintro rfl; exact h h3
        exact ⟨by omega, by omega, h3⟩

theorem acceptedFrom_pairwise (t : Thresholds) (S : Nat → Word) (L todo i : Nat) :
    (acceptedFrom t S L todo i).Pairwise (· < ·) := by
  induction todo generalizing i with
  | zero => exact List.Pairwise.nil
  | succ todo ih =>
    simp only [acceptedFrom]
    split
    · refine List.Pairwise.cons (fun j hj => ?_) (ih _)
      have := (mem_acceptedFrom ..).1 hj
      omega
    · exact ih _

/-- The scan, said once: it appends the accepted indices in order, at most up to MAX_PEAKS entries, and leaves every other
cell of `CAND` alone (R124). -/
theorem detectLoop_spec (t : Thresholds) (S : Nat → Word) (L mp todo i n : Nat) (cand : Cells 16) (hi : 1 ≤ i)
    (hn : n ≤ mp) :
    (detectLoop t S L mp todo i (gradient S L (i - 1)) n cand).1
        = n + ((acceptedFrom t S L todo i).take (mp - n)).length ∧
    ∀ k, (detectLoop t S L mp todo i (gradient S L (i - 1)) n cand).2.get? k
        = if n ≤ k ∧ k < n + ((acceptedFrom t S L todo i).take (mp - n)).length
          then (acceptedFrom t S L todo i)[k - n]?.map (BitVec.ofNat 16) else cand.get? k := by
  induction todo generalizing i n cand with
  | zero =>
    refine ⟨by simp [detectLoop, acceptedFrom], fun k => ?_⟩
    rw [if_neg (by simp [acceptedFrom])]
    rfl
  | succ todo ih =>
    simp only [detectLoop]
    by_cases hfull : n = mp
    · subst hfull
      simp only [if_true, Nat.sub_self, List.take_zero, List.length_nil, Nat.add_zero, true_and]
      intro k
      rw [if_neg (by omega)]
    · simp only [hfull, if_false]
      have hs := fun n cand => ih (i + 1) n cand (by omega)
      simp only [Nat.add_sub_cancel] at hs
      by_cases hacc : acceptsAt t S L i = true
      · have hacc' : acceptsIndex t S i (gradient S L (i - 1)) (gradient S L i) = true := hacc
        rw [if_pos hacc']
        obtain ⟨h1, h2⟩ := hs (n + 1) (cand.set n (BitVec.ofNat 16 i)) (by omega)
        have hlist : acceptedFrom t S L (todo + 1) i = i :: acceptedFrom t S L todo (i + 1) := by
          simp [acceptedFrom, hacc]
        have htake : mp - n = (mp - (n + 1)) + 1 := by omega
        rw [hlist, htake, List.take_succ_cons, List.length_cons]
        refine ⟨by rw [h1]; omega, fun k => ?_⟩
        rw [h2, Cells.get?_set]
        by_cases hk : k = n
        · subst hk
          simp
        · by_cases hk2 : n + 1 ≤ k ∧ k < n + 1 + ((acceptedFrom t S L todo (i + 1)).take (mp - (n + 1))).length
          · rw [if_pos hk2, if_pos (by omega), show k - n = (k - (n + 1)) + 1 by omega, List.getElem?_cons_succ]
          · rw [if_neg hk2, if_neg hk, if_neg (by omega)]
      · have hacc' : ¬ acceptsIndex t S i (gradient S L (i - 1)) (gradient S L i) = true := hacc
        rw [if_neg hacc']
        have hlist : acceptedFrom t S L (todo + 1) i = acceptedFrom t S L todo (i + 1) := by
          simp [acceptedFrom, hacc]
        rw [hlist]
        exact hs n cand hn

theorem detectLoop_rising (t : Thresholds) (S : Nat → Word) (L mp todo i n : Nat) (prev : Word) (cand : Cells 16)
    (h : cand.rising = true) : (detectLoop t S L mp todo i prev n cand).2.rising = true := by
  induction todo generalizing i n prev cand with
  | zero => exact h
  | succ todo ih =>
    simp only [detectLoop]
    split
    · exact h
    · split
      · exact ih _ _ _ _ (Cells.rising_set _ _ _ h)
      · exact ih _ _ _ _ h

/-- A scan over `CAND` cells that already hold its outcome changes nothing. -/
theorem detectLoop_of_written (t : Thresholds) (S : Nat → Word) (L mp todo i n : Nat) (cand : Cells 16) (hi : 1 ≤ i)
    (hn : n ≤ mp)
    (h : ∀ k, k < ((acceptedFrom t S L todo i).take (mp - n)).length →
      cand.get? (n + k) = (acceptedFrom t S L todo i)[k]?.map (BitVec.ofNat 16)) :
    (detectLoop t S L mp todo i (gradient S L (i - 1)) n cand).2 = cand := by
  induction todo generalizing i n with
  | zero => rfl
  | succ todo ih =>
    simp only [detectLoop]
    split
    · rfl
    · next hfull =>
      have hs := ih (i + 1)
      simp only [Nat.add_sub_cancel] at hs
      by_cases hacc : acceptsAt t S L i = true
      · have hacc' : acceptsIndex t S i (gradient S L (i - 1)) (gradient S L i) = true := hacc
        rw [if_pos hacc']
        have hlist : acceptedFrom t S L (todo + 1) i = i :: acceptedFrom t S L todo (i + 1) := by
          simp [acceptedFrom, hacc]
        have htake : mp - n = (mp - (n + 1)) + 1 := by omega
        rw [hlist, htake, List.take_succ_cons, List.length_cons] at h
        have h0 := h 0 (by omega)
        simp only [Nat.add_zero, List.getElem?_cons_zero, Option.map_some] at h0
        rw [Cells.set_of_get? _ _ _ h0]
        refine hs (n + 1) (by omega) (by omega) fun k hk => ?_
        have := h (k + 1) (by omega)
        rwa [List.getElem?_cons_succ, show n + (k + 1) = n + 1 + k by omega] at this
      · have hacc' : ¬ acceptsIndex t S i (gradient S L (i - 1)) (gradient S L i) = true := hacc
        rw [if_neg hacc']
        have hlist : acceptedFrom t S L (todo + 1) i = acceptedFrom t S L todo (i + 1) := by
          simp [acceptedFrom, hacc]
        rw [hlist] at h
        exact hs n (by omega) hn h

/-- The accepted indices of a state's whole signal. -/
def State.accepted (s : State) : List Nat := acceptedFrom s.thresholds s.sigAt s.length (s.length - 2) 1

/-- Detection finds as many candidates as there are accepted indices, up to MAX_PEAKS. -/
theorem State.detect_count (s : State) : s.detect.count = min s.accepted.length s.peakCapacity := by
  obtain ⟨h1, -⟩ := detectLoop_spec s.thresholds s.sigAt s.length s.peakCapacity (s.length - 2) 1 0 s.mem.cand
    (le_refl _) (Nat.zero_le _)
  have hcap : s.peakCapacity < 65536 := s.params.maxPeaks.isLt
  simp only [State.count, State.detect, BitVec.toNat_ofNat]
  rw [h1, Nat.mod_eq_of_lt]
  · simp [State.accepted, Nat.min_comm]
  · simp only [List.length_take]; omega

/-- Detection lists the accepted indices in order, and leaves the cells beyond them alone. -/
theorem State.detect_cand_get? (s : State) (k : Nat) :
    s.detect.mem.cand.get? k =
      if k < s.detect.count then s.accepted[k]?.map (BitVec.ofNat 16) else s.mem.cand.get? k := by
  obtain ⟨-, h2⟩ := detectLoop_spec s.thresholds s.sigAt s.length s.peakCapacity (s.length - 2) 1 0 s.mem.cand
    (le_refl _) (Nat.zero_le _)
  rw [State.detect_count]
  simp only [State.detect]
  rw [h2 k]
  simp [State.accepted, Nat.min_comm]

theorem State.mem_accepted (s : State) (i : Nat) :
    i ∈ s.accepted ↔ 1 ≤ i ∧ i + 2 ≤ s.length ∧
      IsCandidate s.noiseFloor.toInt s.minGrad.toInt s.sample s.length i := by
  rw [State.accepted, mem_acceptedFrom, acceptsAt_iff]
  simp only [State.thresholds]
  constructor
  · rintro ⟨h1, h2, h3⟩
    exact ⟨h1, by omega, h3⟩
  · rintro ⟨h1, h2, h3⟩
    exact ⟨h1, by omega, h3⟩

/-- The candidates detection lists, read back (R124): each is the accepted index at its position. -/
theorem State.detect_candAt (s : State) (k : Nat) (h : k < s.detect.count) :
    s.accepted[k]? = some (s.detect.candAt k).toNat := by
  have hc := s.detect_count
  have hk : k < s.accepted.length := by omega
  have hg := s.detect_cand_get? k
  rw [if_pos h, List.getElem?_eq_getElem hk] at hg
  simp only [State.candAt, hg, Option.map_some, Option.getD_some, BitVec.toNat_ofNat]
  rw [List.getElem?_eq_getElem hk]
  have hL : s.length < 65536 := s.len.isLt
  have := (s.mem_accepted _).1 (List.getElem_mem hk)
  rw [Nat.mod_eq_of_lt (by omega)]

/-- Beyond the candidates detection lists, `CAND` reads as before. -/
theorem State.detect_candAt_beyond (s : State) (k : Nat) (h : ¬ k < s.detect.count) : s.detect.candAt k = s.candAt k := by
  have hg := s.detect_cand_get? k
  rw [if_neg h] at hg
  simp only [State.candAt, hg, State.detect_resets]

/-- Converting a signal that is already converted changes nothing. -/
theorem State.convert_of_converted (s : State)
    (h : ∀ i, i < s.length → s.mem.sig.get? i = some (tofix (s.rawAt i))) : s.convert = s := by
  unfold State.convert
  rw [convertCells_of_converted _ _ _ h]

/-- Detecting again changes nothing. -/
theorem State.detect_detect (s : State) : (s.detect.setCandCount 0).detect = s.detect := by
  have h : ∀ k, k < (s.accepted.take s.peakCapacity).length →
      s.detect.mem.cand.get? k = s.accepted[k]?.map (BitVec.ofNat 16) := by
    intro k hk
    rw [State.detect_cand_get?, if_pos]
    rw [State.detect_count]
    simpa [Nat.min_comm] using hk
  have h2 := detectLoop_of_written s.thresholds s.sigAt s.length s.peakCapacity (s.length - 2) 1 0 s.detect.mem.cand
    (le_refl _) (Nat.zero_le _) (by simpa [State.accepted] using h)
  obtain ⟨a1, -⟩ := detectLoop_spec s.thresholds s.sigAt s.length s.peakCapacity (s.length - 2) 1 0 s.mem.cand
    (le_refl _) (Nat.zero_le _)
  obtain ⟨a2, -⟩ := detectLoop_spec s.thresholds s.sigAt s.length s.peakCapacity (s.length - 2) 1 0 s.detect.mem.cand
    (le_refl _) (Nat.zero_le _)
  have e1 : (s.detect.setCandCount 0).detect.mem.cand = s.detect.mem.cand := h2
  have e2 : (s.detect.setCandCount 0).detect.candCount = s.detect.candCount :=
    congrArg (BitVec.ofNat 16) (a2.trans a1.symm)
  have e : (s.detect.setCandCount 0).detect = { s.detect with
      mem := { s.detect.mem with cand := (s.detect.setCandCount 0).detect.mem.cand }
      candCount := (s.detect.setCandCount 0).detect.candCount } := rfl
  rw [e, e1, e2]

/-! ## The canonical form of the memory -/

theorem State.convert_wf (s : State) (h : s.mem.wf = true) : s.convert.mem.wf = true := by
  rw [Memory.wf_iff] at *
  exact ⟨h.1, convertCells_rising _ _ _ h.2.1, h.2.2⟩

theorem State.detect_wf (s : State) (h : s.mem.wf = true) : s.detect.mem.wf = true := by
  rw [Memory.wf_iff] at *
  exact ⟨h.1, h.2.1, detectLoop_rising _ _ _ _ _ _ _ _ _ h.2.2⟩

/-! ## Only the samples of the signal are read -/

theorem gradient_congr {S S' : Nat → Word} {L i : Nat} (hL : 3 ≤ L) (hi : i < L) (h : ∀ j, j < L → S j = S' j) :
    gradient S L i = gradient S' L i := by
  unfold gradient
  split
  · rw [h 1 (by omega), h 0 (by omega)]
  · split
    · rw [h _ (by omega), h _ (by omega)]
    · rw [h (i + 1) (by omega), h (i - 1) (by omega)]

theorem acceptsAt_congr {t : Thresholds} {S S' : Nat → Word} {L i : Nat} (h1 : 1 ≤ i) (h2 : i + 2 ≤ L)
    (h : ∀ j, j < L → S j = S' j) : acceptsAt t S L i = acceptsAt t S' L i := by
  unfold acceptsAt acceptsIndex
  rw [gradient_congr (by omega) (by omega : i - 1 < L) h, gradient_congr (by omega) (by omega : i < L) h, h i (by omega),
    h (i - 1) (by omega), h (i + 1) (by omega)]

theorem acceptedFrom_congr {t : Thresholds} {S S' : Nat → Word} {L todo i : Nat} (h1 : 1 ≤ i) (h2 : i + todo + 1 ≤ L)
    (h : ∀ j, j < L → S j = S' j) : acceptedFrom t S L todo i = acceptedFrom t S' L todo i := by
  induction todo generalizing i with
  | zero => rfl
  | succ n ih =>
    simp only [acceptedFrom]
    rw [acceptsAt_congr h1 (by omega) h, ih (by omega) (by omega)]

end Sys2Proof.Machine
end

