-- ==== Sys2Proof/Laws/Encoding.lean ====
section
/-! SUPPORT. Fields and words correspond one to one; opcodes and register numbers read back. -/

namespace Sys2Proof

/-- Fields packed at the positions of 30_encoding.md R80 read back, as numbers. -/
theorem fields_of_sum {o d s t z i : Nat} (ho : o < 64) (hd : d < 8) (hs : s < 8) (ht : t < 8) (hz : z < 2)
    (hi : i < 65536) {n : Nat}
    (h : n = (o * 0x4000000 + d * 0x800000 + s * 0x100000 + t * 0x20000 + z * 0x10000 + i) % 4294967296) :
    n / 67108864 % 64 = o ∧ n / 8388608 % 8 = d ∧ n / 1048576 % 8 = s ∧ n / 131072 % 8 = t ∧ n / 65536 % 2 = z ∧
      n % 65536 = i := by
  omega

theorem fieldsOf_toNat (w : Word) :
    (fieldsOf w).opcode.toNat = w.toNat / 67108864 % 64 ∧ (fieldsOf w).rd.toNat = w.toNat / 8388608 % 8 ∧
    (fieldsOf w).rs1.toNat = w.toNat / 1048576 % 8 ∧ (fieldsOf w).rs2.toNat = w.toNat / 131072 % 8 ∧
    (fieldsOf w).z.toNat = w.toNat / 65536 % 2 ∧ (fieldsOf w).imm16.toNat = w.toNat % 65536 := by
  simp only [fieldsOf, BitVec.extractLsb'_toNat, Nat.shiftRight_eq_div_pow]
  norm_num

theorem Fields.eq_of_toNat {f g : Fields} (h1 : f.opcode.toNat = g.opcode.toNat) (h2 : f.rd.toNat = g.rd.toNat)
    (h3 : f.rs1.toNat = g.rs1.toNat) (h4 : f.rs2.toNat = g.rs2.toNat) (h5 : f.z.toNat = g.z.toNat)
    (h6 : f.imm16.toNat = g.imm16.toNat) : f = g := by
  cases f; cases g
  simp only [BitVec.toNat_inj] at *
  simp [*]

theorem wordOf_toNat (f : Fields) :
    (wordOf f).toNat = (f.opcode.toNat * 0x4000000 + f.rd.toNat * 0x800000 + f.rs1.toNat * 0x100000
      + f.rs2.toNat * 0x20000 + f.z.toNat * 0x10000 + f.imm16.toNat) % 4294967296 := by
  rw [wordOf, BitVec.toNat_ofNat]

/-- Reading the fields of a packed word gives them back. -/
theorem fieldsOf_wordOf (f : Fields) : fieldsOf (wordOf f) = f := by
  obtain ⟨h1, h2, h3, h4, h5, h6⟩ := fields_of_sum f.opcode.isLt f.rd.isLt f.rs1.isLt f.rs2.isLt f.z.isLt f.imm16.isLt
    (wordOf_toNat f)
  obtain ⟨k1, k2, k3, k4, k5, k6⟩ := fieldsOf_toNat (wordOf f)
  exact Fields.eq_of_toNat (k1.trans h1) (k2.trans h2) (k3.trans h3) (k4.trans h4) (k5.trans h5) (k6.trans h6)

/-- A number below 2^32 is the sum of its fields. -/
theorem sum_of_fields {n : Nat} (h : n < 4294967296) :
    (n / 67108864 % 64 * 0x4000000 + n / 8388608 % 8 * 0x800000 + n / 1048576 % 8 * 0x100000
      + n / 131072 % 8 * 0x20000 + n / 65536 % 2 * 0x10000 + n % 65536) % 4294967296 = n := by
  omega

/-- Packing the fields of a word gives it back. -/
theorem wordOf_fieldsOf (w : Word) : wordOf (fieldsOf w) = w := by
  apply BitVec.eq_of_toNat_eq
  obtain ⟨k1, k2, k3, k4, k5, k6⟩ := fieldsOf_toNat w
  rw [wordOf_toNat, k1, k2, k3, k4, k5, k6]
  exact sum_of_fields w.isLt

@[simp] theorem Reg.ofBits_bits (r : Reg) : Reg.ofBits r.bits = r := by cases r <;> rfl

@[simp] theorem Reg.bits_ofBits (b : BitVec 3) : (Reg.ofBits b).bits = b := by
  revert b; decide

@[simp] theorem Opcode.ofBits_bits (o : Opcode) : Opcode.ofBits o.bits = some o := by cases o <;> decide

/-- The opcode map names an operation by its own opcode and by no other. -/
theorem Opcode.bits_of_ofBits {b : BitVec 6} {o : Opcode} (h : Opcode.ofBits b = some o) : o.bits = b := by
  have := List.find?_some h
  simpa using this

@[simp] theorem Instr.fields_opcode (i : Instr) : i.fields.opcode = i.opcode.bits := by cases i <;> rfl

theorem Instr.fields_unusedZero (i : Instr) : i.opcode.format.unusedZero i.fields = true := by cases i <;> rfl

theorem Opcode.instr_fields (i : Instr) : i.opcode.instr i.fields = i := by
  cases i <;> simp [Instr.opcode, Instr.fields, Opcode.instr]

/-- What an operation makes of well-formed fields has those fields and that operation. -/
theorem Opcode.fields_instr (o : Opcode) (f : Fields) (h : o.format.unusedZero f = true) (hb : o.bits = f.opcode) :
    (o.instr f).fields = f ∧ (o.instr f).opcode = o := by
  obtain ⟨op, rd, rs1, rs2, z, imm⟩ := f
  simp only at hb
  subst hb
  cases o <;> simp only [Opcode.format, Format.unusedZero, Bool.and_eq_true, beq_iff_eq] at h <;>
    simp [Opcode.instr, Instr.fields, Instr.opcode, h]

/-- The decoder, said once: a word with the fields `f` decodes to what its operation makes of them, when the unused fields
are zero. -/
theorem decode_of_fields {w : Word} {f : Fields} {o : Opcode} (hf : fieldsOf w = f)
    (ho : Opcode.ofBits f.opcode = some o) (hu : o.format.unusedZero f = true) : decode w = .ok (o.instr f) := by
  subst hf
  unfold decode
  rw [ho]
  simp only [hu, if_true]

/-- The inversion lemma of the decoder: a decoded command has the fields of its word. -/
theorem decode_ok_fields {w : Word} {i : Instr} (h : decode w = .ok i) : i.fields = fieldsOf w := by
  unfold decode at h
  split at h
  · simp at h
  · next o ho =>
    split at h
    · next hu =>
      simp only [Except.ok.injEq] at h
      subst h
      exact (o.fields_instr _ hu (Opcode.bits_of_ofBits ho)).1
    · simp at h

/-! ## Masks -/

theorem extract_eq_iff (w : Word) (s n : Nat) (v : BitVec n) :
    w.extractLsb' s n = v ↔ ∀ j, j < n → w.getLsbD (s + j) = v.getLsbD j := by
  constructor
  · rintro rfl j hj
    simp [hj]
  · intro h
    apply BitVec.eq_of_getLsbD_eq
    intro i hi
    simp [hi, h i hi]

theorem and_eq_iff (w M m : Word) :
    w &&& M = m ↔ ∀ j, j < 32 → (w.getLsbD j && M.getLsbD j) = m.getLsbD j := by
  constructor
  · rintro rfl j hj
    simp
  · intro h
    apply BitVec.eq_of_getLsbD_eq
    intro i hi
    simp [h i hi]

theorem bool_mask_split (w M M' m m' : Bool) (h : (M && M') = false) (hm : (m && M) = m) (hm' : (m' && M') = m') :
    (w && (M || M')) = (m || m') ↔ (w && M) = m ∧ (w && M') = m' := by
  revert w M M' m m'; decide

/-- A comparison under two disjoint masks is one comparison under each. -/
theorem and_or_eq_iff (w M M' m m' : Word) (h : M &&& M' = 0) (hm : m &&& M = m) (hm' : m' &&& M' = m') :
    w &&& (M ||| M') = m ||| m' ↔ w &&& M = m ∧ w &&& M' = m' := by
  rw [and_eq_iff] at h hm hm'
  rw [and_eq_iff, and_eq_iff, and_eq_iff, ← forall_and]
  refine forall_congr' fun j => ?_
  rw [← imp_and]
  refine forall_congr' fun hj => ?_
  have := bool_mask_split (w.getLsbD j) _ _ _ _ (by simpa using h j hj) (hm j hj) (hm' j hj)
  rwa [BitVec.getLsbD_or, BitVec.getLsbD_or]

/-- The mask of the `n` bits from bit `s` up. -/
def maskBlock (s n : Nat) : Word := BitVec.ofNat 32 (2 ^ n - 1) <<< s

/-- A comparison under the mask of one field is a comparison of that field. -/
theorem and_maskBlock_iff (w : Word) (s n : Nat) (v : BitVec n) (h : s + n ≤ 32) :
    w &&& maskBlock s n = v.setWidth 32 <<< s ↔ w.extractLsb' s n = v := by
  have hb : ∀ j, j < 32 → (maskBlock s n).getLsbD j = (decide (s ≤ j) && decide (j - s < n)) := by
    intro j hj
    simp only [maskBlock, BitVec.getLsbD_shiftLeft, BitVec.getLsbD_ofNat, Nat.testBit_two_pow_sub_one]
    by_cases h1 : j < s
    · simp [h1, Nat.not_le.2 h1]
    · simp [h1, hj, Nat.not_lt.1 h1, show j - s < 32 by omega]
  have hm : ∀ j, j < 32 → (v.setWidth 32 <<< s).getLsbD j = (decide (s ≤ j) && v.getLsbD (j - s)) := by
    intro j hj
    simp only [BitVec.getLsbD_shiftLeft, BitVec.getLsbD_setWidth]
    by_cases h1 : j < s
    · simp [h1, Nat.not_le.2 h1]
    · simp [h1, hj, Nat.not_lt.1 h1, show j - s < 32 by omega]
  rw [and_eq_iff, extract_eq_iff]
  constructor
  · intro hh j hj
    have := hh (s + j) (by omega)
    rw [hb _ (by omega), hm _ (by omega)] at this
    simpa [hj] using this
  · intro hh j hj
    rw [hb _ hj, hm _ hj]
    by_cases h1 : s ≤ j
    · by_cases h2 : j - s < n
      · have := hh (j - s) h2
        rw [show s + (j - s) = j by omega] at this
        simp only [this, h1, h2, decide_true, Bool.and_self, Bool.and_true, Bool.true_and]
      · simp [h2, BitVec.getLsbD_of_ge v (j - s) (by omega)]
    · simp [h1]

/-- A mask with one must-be-zero field more. -/
theorem and_or_maskBlock_iff (w M m : Word) (s n : Nat) (h : s + n ≤ 32) (hd : M &&& maskBlock s n = 0)
    (hm : m &&& M = m) : w &&& (M ||| maskBlock s n) = m ↔ w &&& M = m ∧ w.extractLsb' s n = 0 := by
  have := and_or_eq_iff w M (maskBlock s n) m 0 hd hm (by simp)
  have hz := and_maskBlock_iff w s n 0 h
  rw [show (0 : BitVec n).setWidth 32 <<< s = 0 by simp] at hz
  rw [hz] at this
  simpa using this

end Sys2Proof
end

