-- ==== Sys2Proof/Laws/PerInstr.lean ====
section
/-! SUPPORT. The per-instruction family `EncodesRow`: the fields of every command obey its format (30_encoding.md R81). -/

namespace Sys2Proof.Laws.EncodesRow

/-- The fields `encode` packs have the row's opcode, and every field the row's format does not use is zero. -/
def Statement (i : Instr) : Prop :=
  i.fields.opcode = i.opcode.bits ∧ i.opcode.format.unusedZero i.fields = true

theorem nop : Statement .nop := ⟨rfl, rfl⟩
theorem tofix (rd : Reg) (imm : Half) : Statement (.tofix rd imm) := ⟨rfl, rfl⟩
theorem setlo (rd : Reg) (imm : Half) : Statement (.setlo rd imm) := ⟨rfl, rfl⟩
theorem fromfix (rd rs1 : Reg) : Statement (.fromfix rd rs1) := ⟨rfl, rfl⟩
theorem satadd (rd rs1 rs2 : Reg) : Statement (.satadd rd rs1 rs2) := ⟨rfl, rfl⟩
theorem satsub (rd rs1 rs2 : Reg) : Statement (.satsub rd rs1 rs2) := ⟨rfl, rfl⟩
theorem satmul (rd rs1 rs2 : Reg) : Statement (.satmul rd rs1 rs2) := ⟨rfl, rfl⟩
theorem push (imm : Half) : Statement (.push imm) := ⟨rfl, rfl⟩
theorem ldraw (rd : Reg) (idx : Half) : Statement (.ldraw rd idx) := ⟨rfl, rfl⟩
theorem straw (idx : Half) (rs1 : Reg) : Statement (.straw idx rs1) := ⟨rfl, rfl⟩
theorem ldsig (rd : Reg) (idx : Half) : Statement (.ldsig rd idx) := ⟨rfl, rfl⟩
theorem stsig (idx : Half) (rs1 : Reg) : Statement (.stsig idx rs1) := ⟨rfl, rfl⟩
theorem ldcand (rd : Reg) (k : Half) : Statement (.ldcand rd k) := ⟨rfl, rfl⟩
theorem grad (rd : Reg) (idx : Half) : Statement (.grad rd idx) := ⟨rfl, rfl⟩
theorem prom (rd : Reg) (idx : Half) : Statement (.prom rd idx) := ⟨rfl, rfl⟩
theorem conv : Statement .conv := ⟨rfl, rfl⟩
theorem detect : Statement .detect := ⟨rfl, rfl⟩
theorem select : Statement .select := ⟨rfl, rfl⟩
theorem find : Statement .find := ⟨rfl, rfl⟩
theorem csrr (rd : Reg) (csr : Half) : Statement (.csrr rd csr) := ⟨rfl, rfl⟩
theorem csrw (csr : Half) (rs1 : Reg) : Statement (.csrw csr rs1) := ⟨rfl, rfl⟩
theorem cfgdef : Statement .cfgdef := ⟨rfl, rfl⟩
theorem out (rs1 : Reg) : Statement (.out rs1) := ⟨rfl, rfl⟩

end Sys2Proof.Laws.EncodesRow
end

