-- ==== Sys2Proof/Laws/Selection.lean ====
section
/-! SUPPORT. What the prominence walks, the guarded prominence and the selection loop do, said once each. -/

namespace Sys2Proof.Machine

/-! ## The walks -/

/-- The left walk (R140): the samples it takes in are those of [a, p), all below the peak; it ends at the signal's start or at
a sample not below the peak; and it returns the least of its start value and those samples. -/
theorem walkLeft_spec (S : Nat → Word) (peak : Word) (p : Nat) (m : Word) :
    ∃ a, a ≤ p ∧ (∀ j, a ≤ j → j < p → (S j).toInt < peak.toInt) ∧ (a = 0 ∨ peak.toInt ≤ (S (a - 1)).toInt) ∧
      (walkLeft S peak p m).toInt ≤ m.toInt ∧
      (∀ j, a ≤ j → j < p → (walkLeft S peak p m).toInt ≤ (S j).toInt) ∧
      ((walkLeft S peak p m).toInt = m.toInt ∨ ∃ j, a ≤ j ∧ j < p ∧ (walkLeft S peak p m).toInt = (S j).toInt) := by
  induction p generalizing m with
  | zero => exact ⟨0, le_refl _, by omega, .inl rfl, le_refl _, by omega, .inl rfl⟩
  | succ p ih =>
    simp only [walkLeft]
    split
    · next h => exact ⟨p + 1, le_refl _, by omega, .inr (by simpa using h), le_refl _, by omega, .inl rfl⟩
    · next h =>
      obtain ⟨a, h1, h2, h3, h4, h5, h6⟩ := ih (signedMin m (S p))
      rw [signedMin_toInt] at h4 h6
      refine ⟨a, by omega, fun j hj hj' => ?_, h3, by omega, fun j hj hj' => ?_, ?_⟩
      · rcases Nat.lt_succ_iff_lt_or_eq.1 hj' with hlt | rfl
        · exact h2 j hj hlt
        · omega
      · rcases Nat.lt_succ_iff_lt_or_eq.1 hj' with hlt | rfl
        · exact h5 j hj hlt
        · omega
      · rcases h6 with h6 | ⟨j, hj, hj', hv⟩
        · by_cases hm : m.toInt ≤ (S p).toInt
          · exact .inl (by omega)
          · exact .inr ⟨p, h1, by omega, by omega⟩
        · exact .inr ⟨j, hj, by omega, hv⟩

/-- The right walk (R140): the samples it takes in are those of [j, b), all below the peak; it ends at the signal's end or at
a sample not below the peak; and it returns the least of its start value and those samples. -/
theorem walkRight_spec (S : Nat → Word) (peak : Word) (todo j : Nat) (m : Word) :
    ∃ b, j ≤ b ∧ b ≤ j + todo ∧ (∀ k, j ≤ k → k < b → (S k).toInt < peak.toInt) ∧
      (b = j + todo ∨ peak.toInt ≤ (S b).toInt) ∧
      (walkRight S peak todo j m).toInt ≤ m.toInt ∧
      (∀ k, j ≤ k → k < b → (walkRight S peak todo j m).toInt ≤ (S k).toInt) ∧
      ((walkRight S peak todo j m).toInt = m.toInt ∨
        ∃ k, j ≤ k ∧ k < b ∧ (walkRight S peak todo j m).toInt = (S k).toInt) := by
  induction todo generalizing j m with
  | zero => exact ⟨j, le_refl _, le_refl _, by omega, .inl rfl, le_refl _, by omega, .inl rfl⟩
  | succ todo ih =>
    simp only [walkRight]
    split
    · next h => exact ⟨j, le_refl _, by omega, by omega, .inr h, le_refl _, by omega, .inl rfl⟩
    · next h =>
      obtain ⟨b, h1, h1', h2, h3, h4, h5, h6⟩ := ih (j + 1) (signedMin m (S j))
      rw [signedMin_toInt] at h4 h6
      refine ⟨b, by omega, by omega, fun k hk hk' => ?_, by rcases h3 with h3 | h3 <;> [exact .inl (by omega); exact .inr h3],
        by omega, fun k hk hk' => ?_, ?_⟩
      · rcases Nat.eq_or_lt_of_le hk with rfl | hlt
        · omega
        · exact h2 k hlt hk'
      · rcases Nat.eq_or_lt_of_le hk with rfl | hlt
        · omega
        · exact h5 k hlt hk'
      · rcases h6 with h6 | ⟨k, hk, hk', hv⟩
        · by_cases hm : m.toInt ≤ (S j).toInt
          · exact .inl (by omega)
          · exact .inr ⟨j, le_refl _, by omega, by omega⟩
        · exact .inr ⟨k, by omega, hk', hv⟩

/-- `prominence(p)` is the prominence of R140 as a relation. -/
theorem prominence_isProminence (S : Nat → Word) (L p : Nat) (hp : p < L) :
    IsProminence (fun j => (S j).toInt) L p (prominence S L p).toInt := by
  obtain ⟨a, a1, a2, a3, a4, a5, a6⟩ := walkLeft_spec S (S p) p (S p)
  obtain ⟨b, b0, b1, b2, b3, b4, b5, b6⟩ := walkRight_spec S (S p) (L - 1 - p) (p + 1) (S p)
  have hb : p ≤ b - 1 ∧ b - 1 < L := by clear a6 b6; omega
  refine ⟨a, b - 1, (walkLeft S (S p) p (S p)).toInt, (walkRight S (S p) (L - 1 - p) (p + 1) (S p)).toInt, ⟨a1, a2, a3⟩,
    ⟨hb.1, hb.2, fun j hj hj' => b2 j hj (by clear a6 b6; omega), ?_⟩, ⟨?_, ?_⟩, ⟨?_, ?_⟩, ?_⟩
  · rcases b3 with b3 | b3
    · exact .inl (by omega)
    · exact .inr (by rwa [show b - 1 + 1 = b by omega])
  · rcases a6 with a6 | ⟨j, hj, hj', hv⟩
    · exact ⟨p, a1, le_refl _, a6.symm⟩
    · exact ⟨j, hj, by omega, hv.symm⟩
  · intro j hj hj'
    rcases Nat.eq_or_lt_of_le hj' with rfl | hlt
    · exact a4
    · exact a5 j hj hlt
  · rcases b6 with b6 | ⟨j, hj, hj', hv⟩
    · exact ⟨p, le_refl _, by omega, b6.symm⟩
    · exact ⟨j, by omega, by omega, hv.symm⟩
  · intro j hj hj'
    rcases Nat.eq_or_lt_of_le hj with rfl | hlt
    · exact b4
    · exact b5 j hlt (by omega)
  · simp only [prominence, satsub32_toInt, signedMax_toInt, clamp32]

/-- The sides, the minima and the prominence of an index are unique. -/
theorem IsProminence.unique {S : Nat → Int} {L p : Nat} {v v' : Int} (h : IsProminence S L p v)
    (h' : IsProminence S L p v') : v = v' := by
  obtain ⟨a, b, l, r, ⟨ha, hla, ha0⟩, ⟨hb, hbL, hrb, hb0⟩, ⟨⟨j1, hj1, hj1', e1⟩, hl⟩, ⟨⟨j2, hj2, hj2', e2⟩, hr⟩, rfl⟩ := h
  obtain ⟨a', b', l', r', ⟨ha', hla', ha0'⟩, ⟨hb', hbL', hrb', hb0'⟩, ⟨⟨i1, hi1, hi1', d1⟩, hl'⟩, ⟨⟨i2, hi2, hi2', d2⟩, hr'⟩,
    rfl⟩ := h'
  have haa : a = a' := by
    rcases Nat.lt_trichotomy a a' with h | h | h
    · rcases ha0' with h0 | h0
      · omega
      · have := hla (a' - 1) (by omega) (by omega); omega
    · exact h
    · rcases ha0 with h0 | h0
      · omega
      · have := hla' (a - 1) (by omega) (by omega); omega
  have hbb : b = b' := by
    rcases Nat.lt_trichotomy b b' with h | h | h
    · rcases hb0 with h0 | h0
      · omega
      · have := hrb' (b + 1) (by omega) (by omega); omega
    · exact h
    · rcases hb0' with h0 | h0
      · omega
      · have := hrb (b' + 1) (by omega) (by omega); omega
  subst haa hbb
  have el : l = l' := le_antisymm (by rw [← d1]; exact hl _ hi1 hi1') (by rw [← e1]; exact hl' _ hj1 hj1')
  have er : r = r' := le_antisymm (by rw [← d2]; exact hr _ hi2 hi2') (by rw [← e2]; exact hr' _ hj2 hj2')
  rw [el, er]

/-- A prominence is never negative (R141 (a)). -/
theorem IsProminence.nonneg {S : Nat → Int} {L p : Nat} {v : Int} (h : IsProminence S L p v) : 0 ≤ v := by
  obtain ⟨a, b, l, r, ⟨ha, -, -⟩, ⟨hb, -, -, -⟩, ⟨-, hl⟩, ⟨-, hr⟩, rfl⟩ := h
  have h1 := hl p ha (le_refl _)
  have h2 := hr p (le_refl _) hb
  simp only [clamp32]
  omega

/-! ## Only the samples of the signal are read -/

theorem walkLeft_congr {S S' : Nat → Word} {peak : Word} {p : Nat} {m : Word} (h : ∀ j, j < p → S j = S' j) :
    walkLeft S peak p m = walkLeft S' peak p m := by
  induction p generalizing m with
  | zero => rfl
  | succ p ih =>
    simp only [walkLeft]
    rw [h p (by omega), ih fun j hj => h j (by omega)]

theorem walkRight_congr {S S' : Nat → Word} {peak : Word} {n j : Nat} {m : Word} (h : ∀ k, k < j + n → S k = S' k) :
    walkRight S peak n j m = walkRight S' peak n j m := by
  induction n generalizing j m with
  | zero => rfl
  | succ n ih =>
    simp only [walkRight]
    rw [h j (by omega), ih fun k hk => h k (by omega)]

theorem prominence_congr {S S' : Nat → Word} {L p : Nat} (hp : p < L) (h : ∀ j, j < L → S j = S' j) :
    prominence S L p = prominence S' L p := by
  simp only [prominence]
  rw [h p hp, walkLeft_congr fun j hj => h j (by omega), walkRight_congr fun j hj => h j (by omega)]

/-! ## The guarded prominence -/

theorem State.lengthInvalid_iff (s : State) : s.lengthInvalid = true ↔ s.length = 0 ∨ s.capacity < s.length := by
  simp [State.lengthInvalid]

theorem State.lengthTooLarge_iff (s : State) : s.lengthTooLarge = true ↔ s.capacity < s.length := by
  simp [State.lengthTooLarge]

theorem State.lengthTooSmall_iff (s : State) : s.lengthTooSmall = true ↔ s.length < 3 := by
  simp [State.lengthTooSmall]

/-- Outside the signal the guarded prominence is 0 (R141 (e)). -/
theorem State.promOrZero_outside (s : State) (p : Nat) (h : s.length = 0 ∨ s.capacity < s.length ∨ s.length ≤ p) :
    s.promOrZero p = 0 := by
  unfold State.promOrZero
  rw [if_pos]
  simp only [Bool.or_eq_true, State.lengthInvalid_iff, decide_eq_true_eq]
  tauto

/-- Inside the signal the guarded prominence is the prominence (R141 (e)). -/
theorem State.promOrZero_isProminence (s : State) (p : Nat) (h1 : s.length ≤ s.capacity) (h2 : p < s.length) :
    IsProminence s.sample s.length p (s.promOrZero p).toInt := by
  unfold State.promOrZero
  rw [if_neg]
  · exact prominence_isProminence _ _ _ h2
  · simp only [Bool.or_eq_true, State.lengthInvalid_iff, decide_eq_true_eq]
    omega

theorem State.promOrZero_nonneg (s : State) (p : Nat) : 0 ≤ (s.promOrZero p).toInt := by
  by_cases h : s.length = 0 ∨ s.capacity < s.length ∨ s.length ≤ p
  · rw [State.promOrZero_outside s p h]; decide
  · exact (s.promOrZero_isProminence p (by omega) (by omega)).nonneg

/-! ## The selection loop -/

/-- The prominence `select()` gives the candidate at position `k` (R143). -/
def State.candProm (s : State) (k : Nat) : Word := s.promOrZero (s.candAt k).toNat

/-- The selection loop, said once (R143, R145): among the first `n` candidates, nothing is found exactly when none reaches
the threshold; otherwise the earliest one of greatest prominence is held. -/
theorem State.selectFirst_spec (s : State) (n : Nat) :
    ((s.selectFirst n).found = false ∧ ∀ k, k < n → (s.candProm k).toInt < s.minProm.toInt) ∨
    ((s.selectFirst n).found = true ∧ ∃ k, k < n ∧ s.minProm.toInt ≤ (s.candProm k).toInt ∧
      (s.selectFirst n).prom = s.candProm k ∧ (s.selectFirst n).idx = s.candAt k ∧
      (∀ j, j < n → (s.candProm j).toInt ≤ (s.candProm k).toInt) ∧
      ∀ j, j < k → (s.candProm j).toInt < (s.candProm k).toInt) := by
  induction n with
  | zero => exact .inl ⟨rfl, by omega⟩
  | succ n ih =>
    have hstep : s.selectFirst (n + 1) = (s.selectFirst n).consider s.minProm (s.candAt n) (s.candProm n) := rfl
    rw [hstep]
    unfold Best.consider
    rcases ih with ⟨hf, hall⟩ | ⟨hf, k, hk, hT, hp, hi, hmax, hfirst⟩
    · by_cases hT : s.minProm.toInt ≤ (s.candProm n).toInt
      · rw [if_pos (by simp [hT, hf])]
        refine .inr ⟨rfl, n, by omega, hT, rfl, rfl, fun j hj => ?_, fun j hj => ?_⟩
        · rcases Nat.lt_succ_iff_lt_or_eq.1 hj with hlt | rfl
          · have := hall j hlt; omega
          · exact le_refl _
        · have := hall j hj; omega
      · rw [if_neg (by simp [hT])]
        refine .inl ⟨hf, fun k hk => ?_⟩
        rcases Nat.lt_succ_iff_lt_or_eq.1 hk with hlt | rfl
        · exact hall k hlt
        · omega
    · by_cases hgt : (s.candProm k).toInt < (s.candProm n).toInt
      · rw [if_pos (by simp [hp, hgt]; omega)]
        refine .inr ⟨rfl, n, by omega, by omega, rfl, rfl, fun j hj => ?_, fun j hj => ?_⟩
        · rcases Nat.lt_succ_iff_lt_or_eq.1 hj with hlt | rfl
          · have := hmax j hlt; omega
          · exact le_refl _
        · have := hmax j hj; omega
      · rw [if_neg (by simp [hp, hf, hgt])]
        refine .inr ⟨hf, k, by omega, hT, hp, hi, fun j hj => ?_, hfirst⟩
        rcases Nat.lt_succ_iff_lt_or_eq.1 hj with hlt | rfl
        · exact hmax j hlt
        · omega

theorem State.selectFirst_idx_of_not_found (s : State) (n : Nat) (h : (s.selectFirst n).found = false) :
    s.selectFirst n = Best.start := by
  induction n with
  | zero => rfl
  | succ n ih =>
    have hstep : s.selectFirst (n + 1) = (s.selectFirst n).consider s.minProm (s.candAt n) (s.candProm n) := rfl
    rw [hstep] at h ⊢
    unfold Best.consider at h ⊢
    split at h
    · simp at h
    · next hc => rw [if_neg hc]; exact ih h

/-- The selection loop reads `SIG`, L, `CAND` and MIN_PROM only. -/
theorem State.selectFirst_congr (s s' : State) (n : Nat) (h1 : s'.minProm = s.minProm)
    (h2 : ∀ k, k < n → s'.candAt k = s.candAt k) (h3 : ∀ k, k < n → s'.candProm k = s.candProm k) :
    s'.selectFirst n = s.selectFirst n := by
  induction n with
  | zero => rfl
  | succ n ih =>
    have e : ∀ u : State, u.selectFirst (n + 1) = (u.selectFirst n).consider u.minProm (u.candAt n) (u.candProm n) :=
      fun _ => rfl
    rw [e, e, ih (fun k hk => h2 k (by omega)) (fun k hk => h3 k (by omega)), h1, h2 n (by omega), h3 n (by omega)]

theorem State.recordBest_found (s : State) (b : Best) (h : b.found = true) :
    (s.recordBest b).status = .ok ∧ (s.recordBest b).bestIdx = b.idx ∧ (s.recordBest b).bestProm = b.prom := by
  simp [State.recordBest, h]

theorem State.recordBest_not_found (s : State) (b : Best) (h : b.found = false) :
    s.recordBest b = s.setStatus .noPeak := by
  simp [State.recordBest, h]

end Sys2Proof.Machine
end

