-- ==== Sys2Proof/Laws/Step.lean ====
section
/-! SUPPORT. Frames of the shared updates, and what `exec` and `step` can do, said once. -/

namespace Sys2Proof.Machine

/-! ## Frames -/

theorem Unchanged.refl (w : Touches) (s : State) : Unchanged w s s :=
  ⟨fun _ _ => rfl, fun _ _ => rfl, fun _ _ => rfl, fun _ _ => rfl, fun _ _ => rfl, fun _ => rfl, rfl, rfl, rfl⟩

theorem Unchanged.trans {w : Touches} {s t u : State} (h : Unchanged w s t) (h' : Unchanged w t u) : Unchanged w s u := by
  obtain ⟨a1, a2, a3, a4, a5, a6, a7, a8, a9⟩ := h
  obtain ⟨b1, b2, b3, b4, b5, b6, b7, b8, b9⟩ := h'
  exact ⟨fun r hr => (b1 r hr).trans (a1 r hr), fun c hc => (b2 c hc).trans (a2 c hc),
    fun i hi => (b3 i hi).trans (a3 i hi), fun i hi => (b4 i hi).trans (a4 i hi), fun i hi => (b5 i hi).trans (a5 i hi),
    fun h => (b6 h).trans (a6 h), b7.trans a7, b8.trans a8, b9.trans a9⟩

/-- Two states that agree on every field a CSR shows read every CSR alike, but for the listed ones. -/
theorem State.csr_congr {s t : State} {cs : List Csr} (h1 : .len ∉ cs → t.len = s.len)
    (h2 : .minProm ∉ cs → t.minProm = s.minProm) (h3 : .minGrad ∉ cs → t.minGrad = s.minGrad)
    (h4 : .noiseFloor ∉ cs → t.noiseFloor = s.noiseFloor) (h5 : .status ∉ cs → t.status = s.status)
    (h6 : .bestIdx ∉ cs → t.bestIdx = s.bestIdx) (h7 : .bestProm ∉ cs → t.bestProm = s.bestProm)
    (h8 : .candCount ∉ cs → t.candCount = s.candCount) (h9 : .cmdErr ∉ cs → t.cmdErr = s.cmdErr)
    (h10 : t.params = s.params) (c : Csr) (hc : c ∉ cs) : t.csr c = s.csr c := by
  cases c <;> simp only [State.csr] <;> simp [*]

theorem State.setReg_unchanged (s : State) (rd : Reg) (v : Word) : Unchanged { regs := [rd] } s (s.setReg rd v) := by
  refine ⟨fun r hr => ?_, fun c _ => ?_, fun _ _ => rfl, fun _ _ => rfl, fun _ _ => rfl, fun _ => rfl, rfl, rfl, rfl⟩
  · exact Regs.get_set_ne _ _ (by simpa using hr)
  · cases c <;> rfl

theorem State.writeRaw_unchanged (s : State) (i : Nat) (v : Half) :
    Unchanged { raw := fun j => j = i } s (s.writeRaw i v) := by
  refine ⟨fun _ _ => rfl, fun c _ => ?_, fun j hj => ?_, fun _ _ => rfl, fun _ _ => rfl, fun _ => rfl, rfl, rfl, rfl⟩
  · cases c <;> rfl
  · rw [State.writeRaw_rawAt, if_neg hj]

theorem State.writeSig_unchanged (s : State) (i : Nat) (v : Word) :
    Unchanged { sig := fun j => j = i } s (s.writeSig i v) := by
  refine ⟨fun _ _ => rfl, fun c _ => ?_, fun _ _ => rfl, fun j hj => ?_, fun _ _ => rfl, fun _ => rfl, rfl, rfl, rfl⟩
  · cases c <;> rfl
  · rw [State.writeSig_sigAt, if_neg hj]

theorem State.raiseCmdErr_raisesOnly (s : State) (code : CmdErr) : RaisesOnly code s (s.raiseCmdErr code) := by
  refine ⟨s.raiseCmdErr_cmdErr code, fun r _ => ?_, fun c hc => ?_, fun _ _ => ?_, fun _ _ => ?_, fun _ _ => ?_, fun _ => ?_,
    ?_, ?_, ?_⟩
  · simp
  · exact s.raiseCmdErr_csr code c (by simpa using hc)
  all_goals simp

/-! ## What a step can do -/

/-- The one inversion lemma of `step`: what a step that answers `next t` has done. -/
theorem step_cases {s t : State} (h : step s = .next t) :
    (s.port = [] ∧ t = s) ∨
    (∃ rest, s.port = .reset :: rest ∧ t = (s.withPort rest).applyReset) ∨
    (∃ w rest i, s.port = .command w :: rest ∧ decode w = .ok i ∧ exec i (s.withPort rest) = .next t) ∨
    (∃ w rest e, s.port = .command w :: rest ∧ decode w = .error e ∧
      t = (s.withPort rest).raiseCmdErr (decodeCause e)) := by
  unfold step at h
  split at h
  · next hp => exact .inl ⟨hp, by simpa using h.symm⟩
  · next rest hp => exact .inr (.inl ⟨rest, hp, by simpa using h.symm⟩)
  · next w rest hp =>
    split at h
    · next i hd => exact .inr (.inr (.inl ⟨w, rest, i, hp, hd, h⟩))
    · next e hd => exact .inr (.inr (.inr ⟨w, rest, e, hp, hd, by simpa using h.symm⟩))

/-- Where a command that decodes records an error, and which (60_exceptions.md R208, R209). -/
def ErrorCase (s : State) : Instr → CmdErr → Prop
  | .push _, c => c = .badIndex ∧ s.capacity ≤ s.length
  | .ldraw _ idx, c => c = .badIndex ∧ s.capacity ≤ idx.toNat
  | .straw idx _, c => c = .badIndex ∧ s.capacity ≤ idx.toNat
  | .ldsig _ idx, c => c = .badIndex ∧ s.capacity ≤ idx.toNat
  | .stsig idx _, c => c = .badIndex ∧ s.capacity ≤ idx.toNat
  | .ldcand _ k, c => c = .badIndex ∧ s.peakCapacity ≤ k.toNat
  | .grad _ idx, c => c = .badIndex ∧ (s.length < 2 ∨ s.capacity < s.length ∨ s.length ≤ idx.toNat)
  | .csrr _ csr, c => c = .badCsr ∧ 0x0009 < csr.toNat
  | .csrw csr _, c => c = .badCsr ∧ 0x0003 < csr.toNat
  | _, _ => False

theorem State.signalIndexOk_iff (s : State) (idx : Half) : s.signalIndexOk idx = true ↔ idx.toNat < s.capacity := by
  simp [State.signalIndexOk]

theorem State.candIndexOk_iff (s : State) (k : Half) : s.candIndexOk k = true ↔ k.toNat < s.peakCapacity := by
  simp [State.candIndexOk]

theorem State.gradIndexOk_iff (s : State) (idx : Half) :
    s.gradIndexOk idx = true ↔ 2 ≤ s.length ∧ s.length ≤ s.capacity ∧ idx.toNat < s.length := by
  simp [State.gradIndexOk, and_assoc]

/-- The shape of every command's effect: nothing, a command error, one register, one `RAW` cell (with LEN for `PUSH`), one
`SIG` cell, one writable CSR, the default thresholds, one word out, or a stage of the find operation. -/
inductive Effect (i : Instr) (s : State) : State → Prop
  | none (h : i = .nop) : Effect i s s
  | error (code : CmdErr) (h : ErrorCase s i code) : Effect i s (s.raiseCmdErr code)
  | reg (rd : Reg) (v : Word) (h : destinationOf i = some rd) : Effect i s (s.setReg rd v)
  | push (imm : Half) (h : i = .push imm) (hl : s.length < s.capacity) :
      Effect i s ((s.writeRaw s.length imm).setLen (s.len + 1))
  | raw (idx : Half) (rs1 : Reg) (v : Half) (h : i = .straw idx rs1) (hl : idx.toNat < s.capacity) :
      Effect i s (s.writeRaw idx.toNat v)
  | sig (idx : Half) (rs1 : Reg) (v : Word) (h : i = .stsig idx rs1) (hl : idx.toNat < s.capacity) :
      Effect i s (s.writeSig idx.toNat v)
  | csrLen (rs1 : Reg) (v : Half) (h : i = .csrw 0 rs1) : Effect i s (s.setLen v)
  | csrMinProm (rs1 : Reg) (v : Word) (h : i = .csrw 1 rs1) : Effect i s (s.setMinProm v)
  | csrMinGrad (rs1 : Reg) (v : Word) (h : i = .csrw 2 rs1) : Effect i s (s.setMinGrad v)
  | csrNoiseFloor (rs1 : Reg) (v : Word) (h : i = .csrw 3 rs1) : Effect i s (s.setNoiseFloor v)
  | defaults (h : i = .cfgdef) : Effect i s s.setDefaultThresholds
  | out (rs1 : Reg) (h : i = .out rs1) : Effect i s (s.sendOut (s.reg rs1))
  | status (c : Status) (h : i = .conv) (hc : c ≠ .none) (hc' : c ≠ .noPeak) : Effect i s (s.setStatus c)
  | conv (h : i = .conv) (hl : s.length ≤ s.capacity) : Effect i s (s.convert.setStatus .ok)
  | detectFails (c : Status) (h : i = .detect) (hc : c ≠ .none) (hc' : c ≠ .noPeak) :
      Effect i s ((s.setCandCount 0).setStatus c)
  | detect (h : i = .detect) (h3 : 3 ≤ s.length) (hl : s.length ≤ s.capacity) :
      Effect i s ((s.setCandCount 0).detect.setStatus .ok)
  | select (h : i = .select) : Effect i s ((s.setBest 0 0).recordBest ((s.setBest 0 0).selectFirst s.count))
  | findInvalid (h : i = .find) : Effect i s ((s.setBest 0 0).setStatus .invalidInput)
  | findShort (h : i = .find) (hl : s.length ≤ s.capacity) :
      Effect i s (((s.setBest 0 0).convert.setCandCount 0).setStatus .bufferTooSmall)
  | findNone (h : i = .find) (h3 : 3 ≤ s.length) (hl : s.length ≤ s.capacity) :
      Effect i s (((s.setBest 0 0).convert.setCandCount 0).detect.setStatus .noPeak)
  | find (h : i = .find) (h3 : 3 ≤ s.length) (hl : s.length ≤ s.capacity) :
      Effect i s ((((s.setBest 0 0).convert.setCandCount 0).detect).recordBest
        ((((s.setBest 0 0).convert.setCandCount 0).detect).selectFirst
          (((s.setBest 0 0).convert.setCandCount 0).detect).count))

/-- The one inversion lemma of `exec`: every command answers a next state, and its effect has one of these shapes. -/
theorem exec_effect (i : Instr) (s : State) : ∃ t, exec i s = .next t ∧ Effect i s t := by
  cases i
  case nop => exact ⟨_, rfl, .none rfl⟩
  case tofix => exact ⟨_, rfl, .reg _ _ rfl⟩
  case setlo => exact ⟨_, rfl, .reg _ _ rfl⟩
  case fromfix => exact ⟨_, rfl, .reg _ _ rfl⟩
  case satadd => exact ⟨_, rfl, .reg _ _ rfl⟩
  case satsub => exact ⟨_, rfl, .reg _ _ rfl⟩
  case satmul => exact ⟨_, rfl, .reg _ _ rfl⟩
  case prom => exact ⟨_, rfl, .reg _ _ rfl⟩
  case push imm =>
    simp only [exec, execPush]
    split
    · next h => exact ⟨_, rfl, .error _ ⟨rfl, h⟩⟩
    · exact ⟨_, rfl, .push imm rfl (by omega)⟩
  case ldraw =>
    simp only [exec, execLdraw]
    split
    · exact ⟨_, rfl, .reg _ _ rfl⟩
    · next h => exact ⟨_, rfl, .error _ ⟨rfl, by rwa [State.signalIndexOk_iff, Nat.not_lt] at h⟩⟩
  case ldsig =>
    simp only [exec, execLdsig]
    split
    · exact ⟨_, rfl, .reg _ _ rfl⟩
    · next h => exact ⟨_, rfl, .error _ ⟨rfl, by rwa [State.signalIndexOk_iff, Nat.not_lt] at h⟩⟩
  case ldcand =>
    simp only [exec, execLdcand]
    split
    · exact ⟨_, rfl, .reg _ _ rfl⟩
    · next h => exact ⟨_, rfl, .error _ ⟨rfl, by rwa [State.candIndexOk_iff, Nat.not_lt] at h⟩⟩
  case grad =>
    simp only [exec, execGrad]
    split
    · exact ⟨_, rfl, .reg _ _ rfl⟩
    · next h => exact ⟨_, rfl, .error _ ⟨rfl, by rw [State.gradIndexOk_iff] at h; omega⟩⟩
  case straw idx rs1 =>
    simp only [exec, execStraw]
    split
    · next h => exact ⟨_, rfl, .raw idx rs1 _ rfl ((s.signalIndexOk_iff _).1 h)⟩
    · next h => exact ⟨_, rfl, .error _ ⟨rfl, by rwa [State.signalIndexOk_iff, Nat.not_lt] at h⟩⟩
  case stsig idx rs1 =>
    simp only [exec, execStsig]
    split
    · next h => exact ⟨_, rfl, .sig idx rs1 _ rfl ((s.signalIndexOk_iff _).1 h)⟩
    · next h => exact ⟨_, rfl, .error _ ⟨rfl, by rwa [State.signalIndexOk_iff, Nat.not_lt] at h⟩⟩
  case csrr =>
    simp only [exec, execCsrr]
    split
    · exact ⟨_, rfl, .reg _ _ rfl⟩
    · next h => exact ⟨_, rfl, .error _ ⟨rfl, Csr.ofNum_none h⟩⟩
  case csrw csr rs1 =>
    simp only [exec, execCsrw]
    split
    · next t h =>
      refine ⟨_, rfl, ?_⟩
      obtain ⟨c, hc, hw⟩ := Option.bind_eq_some_iff.1 h
      have hn := Csr.num_of_ofNum hc
      cases c <;> simp only [State.writeCsr, Option.some.injEq, reduceCtorEq] at hw <;> subst hw
      · exact .csrLen rs1 _ (by rw [← hn]; rfl)
      · exact .csrMinProm rs1 _ (by rw [← hn]; rfl)
      · exact .csrMinGrad rs1 _ (by rw [← hn]; rfl)
      · exact .csrNoiseFloor rs1 _ (by rw [← hn]; rfl)
    · next h => exact ⟨_, rfl, .error _ ⟨rfl, State.writeCsr_none h⟩⟩
  case cfgdef => exact ⟨_, rfl, .defaults rfl⟩
  case out rs1 => exact ⟨_, rfl, .out rs1 rfl⟩
  case conv =>
    simp only [exec, execConv]
    split
    · exact ⟨_, rfl, .status _ rfl (by decide) (by decide)⟩
    · next h =>
      rw [State.lengthInvalid_iff] at h
      exact ⟨_, rfl, .conv rfl (by omega)⟩
  case detect =>
    simp only [exec, execDetect]
    split
    · exact ⟨_, rfl, .detectFails _ rfl (by decide) (by decide)⟩
    · next h =>
      rw [State.lengthTooLarge_iff] at h
      split
      · exact ⟨_, rfl, .detectFails _ rfl (by decide) (by decide)⟩
      · next h' =>
        rw [State.lengthTooSmall_iff] at h'
        simp only [State.setCandCount_length, State.setCandCount_capacity] at h h'
        exact ⟨_, rfl, .detect rfl (by omega) (by omega)⟩
  case select => exact ⟨_, rfl, .select rfl⟩
  case find =>
    simp only [exec, execFind]
    split
    · exact ⟨_, rfl, .findInvalid rfl⟩
    · next h =>
      rw [State.lengthInvalid_iff] at h
      simp only [State.setBest_length, State.setBest_capacity] at h
      split
      · exact ⟨_, rfl, .findShort rfl (by omega)⟩
      · next h' =>
        rw [State.lengthTooSmall_iff] at h'
        simp only [State.setCandCount_length, State.convert_length, State.setBest_length] at h'
        split
        · exact ⟨_, rfl, .findNone rfl (by omega) (by omega)⟩
        · exact ⟨_, rfl, .find rfl (by omega) (by omega)⟩

/-- The inversion lemma of `exec`, from an answer. -/
theorem exec_cases {i : Instr} {s t : State} (h : exec i s = .next t) : Effect i s t := by
  obtain ⟨t', h', e⟩ := exec_effect i s
  rw [h] at h'
  cases h'
  exact e

/-- No command changes the parameters, the host's later inputs or the count of resets. -/
theorem Effect.keeps {i : Instr} {s t : State} (h : Effect i s t) :
    t.params = s.params ∧ t.port = s.port ∧ t.resets = s.resets := by
  cases h <;> simp

/-! ## The classifying commands, path by path -/

theorem exec_conv (s : State) (h0 : 0 < s.length) (h : s.length ≤ s.capacity) :
    exec .conv s = .next (s.convert.setStatus .ok) := by
  simp only [exec, execConv]
  rw [if_neg (by rw [State.lengthInvalid_iff]; omega)]

theorem exec_detect (s : State) (h3 : 3 ≤ s.length) (h : s.length ≤ s.capacity) :
    exec .detect s = .next ((s.setCandCount 0).detect.setStatus .ok) := by
  simp only [exec, execDetect]
  rw [if_neg (by rw [State.lengthTooLarge_iff]; simp; omega), if_neg (by rw [State.lengthTooSmall_iff]; simp; omega)]

theorem exec_select (s : State) :
    exec .select s = .next ((s.setBest 0 0).recordBest ((s.setBest 0 0).selectFirst s.count)) := rfl

theorem exec_find_invalid (s : State) (h : s.length = 0 ∨ s.capacity < s.length) :
    exec .find s = .next ((s.setBest 0 0).setStatus .invalidInput) := by
  simp only [exec, execFind]
  rw [if_pos (by rw [State.lengthInvalid_iff]; simpa using h)]

theorem exec_find_short (s : State) (h0 : 0 < s.length) (h3 : s.length < 3) (h : s.length ≤ s.capacity) :
    exec .find s = .next (((s.setBest 0 0).convert.setCandCount 0).setStatus .bufferTooSmall) := by
  simp only [exec, execFind]
  rw [if_neg (by rw [State.lengthInvalid_iff]; simp; omega), if_pos (by rw [State.lengthTooSmall_iff]; simp; omega)]

/-- The state `FIND` selects from: the signal converted, the candidates found, the results cleared (R146). -/
def State.found (s : State) : State := ((s.setBest 0 0).convert.setCandCount 0).detect

/-- `FIND` on a signal of an admissible length is conversion, detection and selection (R146): with no candidate, selection
finds nothing, which is the same outcome. -/
theorem exec_find (s : State) (h3 : 3 ≤ s.length) (h : s.length ≤ s.capacity) :
    exec .find s = .next (s.found.recordBest (s.found.selectFirst s.found.count)) := by
  simp only [exec, execFind]
  rw [if_neg (by rw [State.lengthInvalid_iff]; simp; omega), if_neg (by rw [State.lengthTooSmall_iff]; simp; omega)]
  by_cases hc : s.found.count = 0
  · rw [if_pos (show ((s.setBest 0 0).convert.setCandCount 0).detect.count = 0 from hc), hc]
    rfl
  · rw [if_neg (show ¬ ((s.setBest 0 0).convert.setCandCount 0).detect.count = 0 from hc)]
    rfl

theorem State.found_sigAt (s : State) (j : Nat) :
    s.found.sigAt j = if j < s.length then tofix (s.rawAt j) else s.sigAt j :=
  (s.setBest 0 0).convert_sigAt j

end Sys2Proof.Machine
end

