-- ==== Sys2Proof/Tests/Slice0.lean ====
section
/-! SUPPORT. The model's own tests. Expected results are those of 95_test_vectors.md (named by their ids) or of the examples
and corner cases in the rules themselves; nothing is copied from a run of the model. -/

namespace Sys2Proof.Machine

/-! ## Helpers -/

/-- Reset, with `RAW` holding the samples and LEN their number. -/
def loaded (samples : List Half) : State :=
  { State.reset with
    len := BitVec.ofNat 16 samples.length
    mem := { raw := samples.zipIdx.map fun e => (e.2, e.1), sig := [], cand := [] } }

/-- Reset, with `SIG` holding the words and LEN their number. -/
def signal (words : List Word) : State :=
  { State.reset with
    len := BitVec.ofNat 16 words.length
    mem := { raw := [], sig := words.zipIdx.map fun e => (e.2, e.1), cand := [] } }

/-- Reset, with LEN set. -/
def ofLength (n : Nat) : State := State.reset.setLen (BitVec.ofNat 16 n)

/-- A state with the candidate list set. -/
def State.withCandidates (s : State) (cs : List Half) : State :=
  { s with mem := { s.mem with cand := cs.zipIdx.map fun e => (e.2, e.1) }, candCount := BitVec.ofNat 16 cs.length }

/-- The next state of an outcome. -/
def nextOf : Host.Outcome State Fault Refusal → State
  | .next t => t
  | .fault _ => State.reset
  | .refused _ => State.reset

/-- The state after one step that takes the word `w`. -/
def after (w : Nat) (s : State) : State := nextOf (step (s.withFetchWord 32 w))

/-- STATUS, BEST_IDX, BEST_PROM and CAND_COUNT, as the tables of 95_test_vectors.md list them. -/
def State.results (s : State) : Status × Nat × Word × Nat := (s.status, s.bestIdx.toNat, s.bestProm, s.count)

/-- STATUS and the candidates. -/
def State.candidates (s : State) : Status × List Nat := (s.status, (List.range s.count).map fun k => (s.candAt k).toNat)

/-- The signal of scenario B (S-B), converted. -/
def signalB : State :=
  signal [0x000A0000, 0x00280000, 0x00460000, 0x00500000, 0x003C0000, 0x00280000, 0x00460000, 0x00640000, 0x00320000,
    0x00140000]

/-- The signal of scenario C (S-C), converted. -/
def signalC : State := signal [0, 0x000A0000, 0x00050000, 0x00140000, 0x00050000, 0x000F0000, 0]

/-! ## Well-formedness: each check refuses an ill-formed term -/

theorem test_wf_csrr : (Instr.csrr .x1 0x0009).wf = true ∧ (Instr.csrr .x1 0x000A).wf = false := by decide
theorem test_wf_csrw : (Instr.csrw 0x0003 .x1).wf = true ∧ (Instr.csrw 0x0004 .x1).wf = false := by decide

/-! ## Decoding: one word of every command, written out in the rules (30_encoding.md, 40 to 44, 95_test_vectors.md) -/

theorem test_decode_nop : decode 0x00000000 = .ok .nop := by decide
theorem test_decode_tofix : decode 0x0480FFFF = .ok (.tofix .x1 0xFFFF) := by decide
theorem test_decode_setlo : decode 0x09001999 = .ok (.setlo .x2 0x1999) := by decide
theorem test_decode_fromfix : decode 0x0E300000 = .ok (.fromfix .x4 .x3) := by decide
theorem test_decode_satadd : decode 0x11940000 = .ok (.satadd .x3 .x1 .x2) := by decide
theorem test_decode_satsub : decode 0x15940000 = .ok (.satsub .x3 .x1 .x2) := by decide
theorem test_decode_satmul : decode 0x19940000 = .ok (.satmul .x3 .x1 .x2) := by decide
theorem test_decode_push : decode 0x2000FFFB = .ok (.push 0xFFFB) := by decide
theorem test_decode_ldraw : decode 0x24800004 = .ok (.ldraw .x1 4) := by decide
theorem test_decode_straw : decode 0x28100004 = .ok (.straw 4 .x1) := by decide
theorem test_decode_ldsig : decode 0x2D000004 = .ok (.ldsig .x2 4) := by decide
theorem test_decode_stsig : decode 0x30200004 = .ok (.stsig 4 .x2) := by decide
theorem test_decode_ldcand : decode 0x36800000 = .ok (.ldcand .x5 0) := by decide
theorem test_decode_grad : decode 0x43000003 = .ok (.grad .x6 3) := by decide
theorem test_decode_prom : decode 0x47800003 = .ok (.prom .x7 3) := by decide
theorem test_decode_conv : decode 0x48000000 = .ok .conv := by decide
theorem test_decode_detect : decode 0x4C000000 = .ok .detect := by decide
theorem test_decode_select : decode 0x50000000 = .ok .select := by decide
theorem test_decode_find : decode 0x54000000 = .ok .find := by decide
theorem test_decode_csrr : decode 0x60800004 = .ok (.csrr .x1 4) := by decide
theorem test_decode_csrw : decode 0x64100001 = .ok (.csrw 1 .x1) := by decide
theorem test_decode_cfgdef : decode 0x68000000 = .ok .cfgdef := by decide
theorem test_decode_out : decode 0x6C100000 = .ok (.out .x1) := by decide

/-- V-E1 to V-E5: unassigned opcodes. -/
theorem test_decode_unassigned :
    ([0x1C000000, 0x38000000, 0x5C000000, 0x70000000, 0xFFFFFFFF].all fun w =>
      decide (decode w = .error .illegalOpcode)) = true := by
  decide

/-- V-E6 to V-E13: a must-be-zero bit is one, in every format but R3 and I, and bit 16. -/
theorem test_decode_reserved :
    ([0x00000001, 0x04810000, 0x0C100001, 0x0C180000, 0x48000001, 0x2080005A, 0x28900004, 0x6C900000].all fun w =>
      decide (decode w = .error .reservedField)) = true := by
  decide

/-- V-E16: bit 17 of an R3 word belongs to `rs2`. -/
theorem test_decode_rs2_bit : decode 0x10020000 = .ok (.satadd .x0 .x0 .x1) := by decide

theorem test_decodeTableWord :
    decodeTableWord 32 0x30200004 = some (.stsig 4 .x2) ∧ decodeTableWord 32 0x38000000 = none := by
  decide

/-! ## Conversion and saturating arithmetic -/

/-- V-TF2, V-TF4. -/
theorem test_tofix :
    (after 0x0480FFFF State.reset).reg .x1 = 0xFFFF0000 ∧ (after 0x04808000 State.reset).reg .x1 = 0x80000000 := by
  decide

/-- V-SL2, V-SL3. -/
theorem test_setlo :
    (after 0x09008000 (State.reset.setReg .x2 0xFFFF0000)).reg .x2 = 0xFFFF8000 ∧
    (after 0x08800000 (State.reset.setReg .x1 0x1234ABCD)).reg .x1 = 0x12340000 := by
  decide

/-- V-FF1 and the table of V-FF2 to V-FF17. -/
theorem test_fromfix :
    ([0x00500000, 0x00008000, 0x00018000, 0xFFFF8000, 0xFFFF7FFF, 0x7FFF7FFF, 0x7FFF8000, 0x80000000, 0x80008000].map
      fun a => (after 0x0E300000 (State.reset.setReg .x3 a)).reg .x4)
      = [0x00000050, 1, 2, 0, 0xFFFFFFFF, 0x7FFF, 0x7FFF, 0xFFFF8000, 0xFFFF8001] := by
  decide

/-- x1 and x2 set, then one command with the result in x3. -/
def three (w : Nat) (a b : Word) : Word := (after w ((State.reset.setReg .x1 a).setReg .x2 b)).reg .x3

/-- Section 2.2 of 95_test_vectors.md. -/
theorem test_satadd :
    three 0x11940000 0x00018000 0xFFFD8000 = 0xFFFF0000 ∧ three 0x11940000 0x7FFF0000 0x00010000 = 0x7FFFFFFF ∧
    three 0x11940000 0x80000000 0xFFFFFFFF = 0x80000000 ∧ three 0x11940000 0x7FFF0000 0x80000000 = 0xFFFF0000 := by
  decide

/-- V-AL: all three fields name one register. -/
theorem test_satadd_alias : (after 0x10920000 (State.reset.setReg .x1 0x40000000)).reg .x1 = 0x7FFFFFFF := by decide

/-- Section 2.2 of 95_test_vectors.md. -/
theorem test_satsub :
    three 0x15940000 0x00018000 0xFFFD8000 = 0x00040000 ∧ three 0x15940000 0x00000000 0x80000000 = 0x7FFFFFFF ∧
    three 0x15940000 0x80000000 0x7FFF0000 = 0x80000000 ∧ three 0x15940000 0x80000000 0xFFFFFFFF = 0x80000001 := by
  decide

/-- Section 2.2 of 95_test_vectors.md. -/
theorem test_satmul :
    three 0x19940000 0x00018000 0xFFFD8000 = 0xFFFC4000 ∧ three 0x19940000 0xFFFFFFFF 0x00000001 = 0xFFFFFFFF ∧
    three 0x19940000 0x40000000 0x00020000 = 0x7FFFFFFF ∧ three 0x19940000 0x80000000 0x00010001 = 0x80000000 ∧
    three 0x19940000 0x00B50000 0x00B50000 = 0x7FF90000 := by
  decide

/-! ## Buffer access -/

/-- V-PU2, V-PU3. -/
theorem test_push :
    ((after 0x2000FFFB State.reset).rawAt 0, (after 0x2000FFFB State.reset).len) = (0xFFFB, 1) ∧
    ((after 0x20000001 (ofLength 255)).rawAt 255, (after 0x20000001 (ofLength 255)).len) = (1, 256) := by
  decide

/-- V-PU4: a full buffer. -/
theorem test_push_full :
    ((after 0x20000001 (ofLength 256)).cmdErr, (after 0x20000001 (ofLength 256)).len) = (.badIndex, 256) := by
  decide

/-- V-LR2, V-LR4. -/
theorem test_ldraw :
    (after 0x24800000 (loaded [0xFFFB])).reg .x1 = 0xFFFFFFFB ∧
    ((after 0x24800100 (loaded [7])).reg .x1, (after 0x24800100 (loaded [7])).cmdErr) = (0, .badIndex) := by
  decide

/-- V-SR2: the low half is stored. -/
theorem test_straw : (after 0x28100004 (State.reset.setReg .x1 0x00018000)).rawAt 4 = 0x8000 := by decide

/-- V-LS1. -/
theorem test_ldsig : (after 0x2D000004 (State.reset.writeSig 4 0x005A0000)).reg .x2 = 0x005A0000 := by decide

/-- V-SS1. -/
theorem test_stsig : (after 0x30200004 (State.reset.setReg .x2 0x005A0000)).sigAt 4 = 0x005A0000 := by decide

/-- V-LC1, V-LC2. -/
theorem test_ldcand :
    (after 0x36800000 (State.reset.withCandidates [3, 5])).reg .x5 = 3 ∧
    ((after 0x36800010 State.reset).cmdErr, (after 0x36800010 State.reset).reg .x5) = (.badIndex, 0) := by
  decide

/-! ## Gradient, conversion of the buffer, detection -/

/-- V-G2, V-G5, V-G7, V-G8: ends, floor, and saturation before halving. -/
theorem test_grad :
    (after 0x40800000 signalB).reg .x1 = 0x001E0000 ∧ (after 0x40800009 signalB).reg .x1 = 0xFFE20000 ∧
    (after 0x40800001 (signal [0x00000003, 0, 0])).reg .x1 = 0xFFFFFFFE ∧
    (after 0x40800001 (signal [0x80000000, 0, 0x7FFF0000])).reg .x1 = 0x3FFFFFFF ∧
    (after 0x40800000 (signal [0x7FFF0000, 0, 0x80000000])).reg .x1 = 0x80010000 := by
  decide

/-- V-G6, V-G9. -/
theorem test_grad_bad_index :
    (after 0x41800002 (signal [0x000A0000, 0x00140000])).cmdErr = .badIndex ∧
    (after 0x40800000 (ofLength 1)).cmdErr = .badIndex ∧ (after 0x40800000 (ofLength 257)).cmdErr = .badIndex := by
  decide

/-- V-C1. -/
theorem test_conv :
    (List.range 4).map (after 0x48000000 (loaded [0x8000, 0x7FFF, 0xFFFF, 0])).sigAt
      = [0x80000000, 0x7FFF0000, 0xFFFF0000, 0x00000000] ∧
    (after 0x48000000 (loaded [0x8000, 0x7FFF, 0xFFFF, 0])).status = .ok := by
  decide

/-- V-C2, V-C3. -/
theorem test_conv_invalid :
    (after 0x48000000 (ofLength 0)).status = .invalidInput ∧ (after 0x48000000 (ofLength 257)).status = .invalidInput := by
  decide

/-- V-D1, V-D2, V-D3, V-D4, V-D5. -/
theorem test_detect :
    (after 0x4C000000 signalC).candidates = (.ok, [3, 5]) ∧
    (after 0x4C000000 (signal [0, 0x000A0000, 0])).candidates = (.ok, []) ∧
    (after 0x4C000000 (signal [0, 0x000A0001, 0])).candidates = (.ok, [1]) ∧
    (after 0x4C000000 (signal [0x000AE667, 0x000B0000, 0])).candidates = (.ok, [1]) ∧
    (after 0x4C000000 (signal [0x000AE668, 0x000B0000, 0])).candidates = (.ok, []) := by
  decide

/-- V-D14, V-D15: the failures clear the count. -/
theorem test_detect_failures :
    (after 0x4C000000 ((ofLength 2).withCandidates [3, 5])).candidates = (.bufferTooSmall, []) ∧
    (after 0x4C000000 ((ofLength 257).withCandidates [3, 5])).candidates = (.invalidInput, []) := by
  decide

/-! ## Prominence, selection, the find operation -/

/-- V-P1, V-P3, V-P5, V-P6. -/
theorem test_prom :
    (after 0x47800005 signalC).reg .x7 = 0x000A0000 ∧ (after 0x4780000A signalB).reg .x7 = 0 ∧
    (after 0x47800002 (signal [0x00140000, 0x00050000, 0x000A0000, 0x00070000, 0x001E0000])).reg .x7 = 0x00030000 ∧
    (after 0x47800001 (signal [0x80000000, 0x7FFF0000, 0x80000000])).reg .x7 = 0x7FFFFFFF := by
  decide

/-- V-P8. -/
theorem test_prom_invalid_length :
    (after 0x47800000 ((ofLength 257).setReg .x7 5)).reg .x7 = 0 ∧
    (after 0x47800000 ((ofLength 257).setReg .x7 5)).cmdErr = .none := by
  decide

/-- V-S1, and V-S7 by its state: candidate 7 lies outside the signal of six samples. -/
theorem test_select :
    (after 0x50000000 (signalB.withCandidates [3, 7])).results = (.ok, 7, 0x00500000, 2) ∧
    (after 0x50000000 ((signalB.withCandidates [3, 7]).setLen 6)).results = (.ok, 3, 0x00280000, 2) := by
  decide

/-- V-S4, V-S6: the threshold test is not strict, and a prominence of 0 can be selected. -/
theorem test_select_threshold :
    (after 0x50000000 (((signal [0x000A0000, 0x000B0000, 0x000A0000]).withCandidates [1]).setMinProm 0x00010001)).results
      = (.noPeak, 0, 0, 1) ∧
    (after 0x50000000 (((signal [0x000B0000, 0x00140000, 0x00140000, 0x000B0000, 0x000B0000]).withCandidates
      [2]).setMinProm 0)).results = (.ok, 2, 0, 1) := by
  decide

/-- S-B, S-F1 (90_conflicts.md C1), V-F9, X-TIE. -/
theorem test_find :
    (after 0x54000000 (loaded [10, 40, 70, 80, 60, 40, 70, 100, 50, 20])).results = (.ok, 7, 0x00500000, 2) ∧
    (after 0x54000000 (loaded [10, 15, 20, 25, 20, 15, 10])).results = (.ok, 3, 0x000F0000, 1) ∧
    (after 0x54000000 (loaded [0x8000, 0x7FFF, 0x8000])).results = (.ok, 1, 0x7FFFFFFF, 1) ∧
    (after 0x54000000 (loaded [0, 20, 0, 0, 20, 0])).results = (.ok, 1, 0x00140000, 2) := by
  decide

/-- V-F3, V-F4, V-F5, V-F6. -/
theorem test_find_failures :
    (after 0x54000000 (loaded [20])).results = (.bufferTooSmall, 0, 0, 0) ∧
    (after 0x54000000 (ofLength 257)).results = (.invalidInput, 0, 0, 0) ∧
    (after 0x54000000 (loaded [11, 20, 20, 11, 11])).results = (.noPeak, 0, 0, 1) ∧
    (after 0x54000000 (loaded [50, 50, 50, 50, 50])).results = (.noPeak, 0, 0, 0) := by
  decide

/-! ## System commands, reset -/

/-- V-N1. -/
theorem test_nop : after 0x00000000 signalB = signalB := by decide

/-- V-CR2, V-CR3, V-CR4. -/
theorem test_csrr :
    (after 0x60800009 State.reset).reg .x1 = 0x00100100 ∧ (after 0x60800002 State.reset).reg .x1 = 0x00001999 ∧
    (after 0x6080000A State.reset).cmdErr = .badCsr := by
  decide

/-- V-CW1, V-CW2, V-CW3. -/
theorem test_csrw :
    (after 0x64100001 (State.reset.setReg .x1 0x00001999)).minProm = 0x00001999 ∧
    (after 0x64100000 (State.reset.setReg .x1 0x00010007)).len = 7 ∧
    (after 0x64100004 (State.reset.setReg .x1 3)).cmdErr = .badCsr ∧
    (after 0x64100004 (State.reset.setReg .x1 3)).status = .none := by
  decide

/-- V-CD1. -/
theorem test_cfgdef :
    let t := after 0x68000000 (((State.reset.setMinProm 0x00001999).setMinGrad 0x00000CCC).setNoiseFloor 0x00050000)
    (t.minProm, t.minGrad, t.noiseFloor) = (0x00010000, 0x00001999, 0x000A0000) := by
  decide

/-- V-O1. -/
theorem test_out : (after 0x6C100000 ((State.reset.setReg .x1 4).sendOut 9)).outq = [9, 4] := by decide

/-- V-E17: the first error is kept. -/
theorem test_first_error_wins :
    (after 0x00000001 (after 0x1C000000 State.reset)).cmdErr = .illegalOpcode := by
  decide

/-- 70_reset_and_hazards.md R220: the reset input, after a `PUSH`. -/
theorem test_reset_input :
    let t := nextOf (step ((after 0x2000FFFB State.reset).withPort [.reset]))
    (t.len, t.mem, t.minProm) = (0, { raw := [], sig := [], cand := [] }, 0x00010000) := by
  decide

/-! ## Witnesses: for every statement with hypotheses, concrete values that meet them, clause by clause -/

theorem witness_EncodeUndoesDecode : decode 0x09001999 = .ok (.setlo .x2 0x1999) := by decide

theorem witness_StepRunsTheDecodedCommand :
    (State.reset.withPort [.command 0x54000000, .reset]).port = .command 0x54000000 :: [.reset] ∧
    decode 0x54000000 = .ok .find := by
  decide

/-- One word for each unassigned opcode of R85 that stands alone, and both ends of 0x1C to 0x3F. -/
theorem witness_UnassignedOpcodeRaisesIllegalOpcode :
    (State.reset.withPort [.command 0x1C000000]).port = .command 0x1C000000 :: [] ∧
    (0x1C000000 : Word).toNat / 0x4000000 = 0x07 ∧ (0x3BFFFFFF : Word).toNat / 0x4000000 = 0x0E ∧
    (0x3C000000 : Word).toNat / 0x4000000 = 0x0F ∧ (0x58000000 : Word).toNat / 0x4000000 = 0x16 ∧
    (0x5FFFFFFF : Word).toNat / 0x4000000 = 0x17 ∧ 0x1C ≤ (0x70000000 : Word).toNat / 0x4000000 ∧
    0x1C ≤ (0xFFFFFFFF : Word).toNat / 0x4000000 := by
  decide

theorem witness_ReservedBitRaisesReservedField :
    (State.reset.withPort [.command 0x04810000]).port = .command 0x04810000 :: [] ∧
    (0x04810000 : Word) &&& 0xFC000000 = Opcode.tofix.matchMask.1 ∧
    (0x04810000 : Word) &&& Opcode.tofix.matchMask.2 ≠ Opcode.tofix.matchMask.1 := by
  decide

theorem witness_StepIgnoresLaterInputs :
    (∃ t, step (State.reset.withPort [.command 0x2000000A, .reset]) = .next t) ∧
    ∃ t, step (State.reset.withPort [.reset, .command 0x2000000A]) = .next t :=
  ⟨⟨_, rfl⟩, ⟨_, rfl⟩⟩

theorem witness_ResetGivesTheResetValues : (signalB.withPort [.reset]).port = .reset :: [] := rfl

theorem witness_ResetForgetsEveryCell :
    ((loaded [1, 2]).withPort [.reset, .reset]).port = .reset :: [.reset] := rfl

theorem witness_ResetAbandonsTheCommandBeforeIt :
    ∃ t, step ((loaded [10, 30, 10]).withPort [.command 0x54000000, .reset]) = .next t := ⟨_, rfl⟩

theorem witness_TofixThenSetloBuildsAnyWord : (0x005A0000 : Word).extractLsb' 0 16 = 0 := by decide

/-- LEN at 0, at its last value with room, at the capacity and beyond it. -/
theorem witness_PushAppendsTheSample :
    (ofLength 0).length < (ofLength 0).capacity ∧ (ofLength 255).length < (ofLength 255).capacity ∧
    (ofLength 256).capacity ≤ (ofLength 256).length ∧ (ofLength 65535).capacity ≤ (ofLength 65535).length := by
  decide

/-- The bound of `LDRAW`, `STRAW`, `LDSIG` and `STSIG`, on both sides. -/
theorem witness_signal_index :
    (0 : Half).toNat < State.reset.capacity ∧ (255 : Half).toNat < State.reset.capacity ∧
    State.reset.capacity ≤ (256 : Half).toNat := by
  decide

/-- The bound of `LDCAND`, on both sides. -/
theorem witness_LdcandReadsTheCandidateZeroExtended :
    (15 : Half).toNat < State.reset.peakCapacity ∧ State.reset.peakCapacity ≤ (16 : Half).toNat := by
  decide

theorem witness_GradIsTheFiniteDifference :
    (2 ≤ (ofLength 2).length ∧ (ofLength 2).length ≤ (ofLength 2).capacity ∧ (1 : Half).toNat < (ofLength 2).length) ∧
    (2 ≤ (ofLength 256).length ∧ (ofLength 256).length ≤ (ofLength 256).capacity ∧
      (255 : Half).toNat < (ofLength 256).length) ∧
    (ofLength 1).length < 2 ∧ (ofLength 257).capacity < (ofLength 257).length ∧
    (ofLength 2).length ≤ (2 : Half).toNat := by
  decide

theorem witness_ConvConvertsTheWholeBuffer :
    (ofLength 0).length = 0 ∧ (ofLength 257).capacity < (ofLength 257).length ∧
    (0 < (ofLength 1).length ∧ (ofLength 1).length ≤ (ofLength 1).capacity) ∧
    (0 < (ofLength 256).length ∧ (ofLength 256).length ≤ (ofLength 256).capacity) := by
  decide

theorem witness_DetectListsTheFirstAcceptedIndices :
    (ofLength 257).capacity < (ofLength 257).length ∧
    ((ofLength 0).length ≤ (ofLength 0).capacity ∧ (ofLength 0).length < 3) ∧
    ((ofLength 2).length ≤ (ofLength 2).capacity ∧ (ofLength 2).length < 3) ∧
    (3 ≤ (ofLength 3).length ∧ (ofLength 3).length ≤ (ofLength 3).capacity) ∧
    (3 ≤ (ofLength 256).length ∧ (ofLength 256).length ≤ (ofLength 256).capacity) := by
  decide

/-- The signal of V-D11 and V-D12, converted. -/
def signalThreePeaks : State := signal [0, 0x00140000, 0, 0x001E0000, 0, 0x00320000, 0]

/-- V-D11 against V-D12: two candidates, then three. -/
theorem witness_MorePeaksOnlyExtendTheCandidateList :
    let s := { signalThreePeaks with params := { maxSignalLength := 256, maxPeaks := 2 } }
    let s' := { s with params := { maxSignalLength := s.params.maxSignalLength, maxPeaks := 16 } }
    s.peakCapacity ≤ (16 : Half).toNat ∧ 3 ≤ s.length ∧ s.length ≤ s.capacity ∧
    exec .detect s = .next (nextOf (exec .detect s)) ∧ exec .detect s' = .next (nextOf (exec .detect s')) ∧
    (nextOf (exec .detect s)).candidates = (.ok, [1, 3]) ∧ (nextOf (exec .detect s')).candidates = (.ok, [1, 3, 5]) :=
  ⟨by decide, by decide, by decide, rfl, rfl, by decide, by decide⟩

/-- Raising the noise floor to 25.0 leaves two of three candidates. -/
theorem witness_HigherThresholdsOnlyRemoveCandidates :
    let s := signalThreePeaks
    let s' := { s with noiseFloor := 0x00190000, minGrad := 0x00001999 }
    s.noiseFloor.toInt ≤ (0x00190000 : Word).toInt ∧ s.minGrad.toInt ≤ (0x00001999 : Word).toInt ∧ 3 ≤ s.length ∧
    s.length ≤ s.capacity ∧ exec .detect s = .next (nextOf (exec .detect s)) ∧
    (nextOf (exec .detect s)).count < s.peakCapacity ∧ exec .detect s' = .next (nextOf (exec .detect s')) ∧
    (nextOf (exec .detect s')).candidates = (.ok, [3, 5]) :=
  ⟨by decide, by decide, by decide, by decide, rfl, by decide, rfl, by decide⟩

/-- Two states that differ in a register, an old result and `RAW`. -/
theorem witness_DetectDependsOnlyOnTheSignalAndThresholds :
    let s := signalC
    let s' := ((signalC.setReg .x1 7).setBest 4 5).writeRaw 0 9
    s.len = s'.len ∧ s.params = s'.params ∧ s.minGrad = s'.minGrad ∧ s.noiseFloor = s'.noiseFloor ∧
    (∀ i, i < s.length → s.sigAt i = s'.sigAt i) ∧ exec .detect s = .next (nextOf (exec .detect s)) ∧
    exec .detect s' = .next (nextOf (exec .detect s')) ∧ 0 < (nextOf (exec .detect s)).count :=
  ⟨rfl, rfl, rfl, rfl, fun _ _ => rfl, rfl, rfl, by decide⟩

theorem witness_PromIsThePeakMinusTheHigherSideMinimum :
    (ofLength 0).length = 0 ∧ (ofLength 257).capacity < (ofLength 257).length ∧
    (ofLength 10).length ≤ (10 : Half).toNat ∧
    ((ofLength 1).length ≤ (ofLength 1).capacity ∧ (0 : Half).toNat < (ofLength 1).length) ∧
    ((ofLength 256).length ≤ (ofLength 256).capacity ∧ (255 : Half).toNat < (ofLength 256).length) := by
  decide

/-- A peak, an end of the signal, and a sample beside an equal one (V-P4). -/
theorem witness_ProminenceIsZeroExactlyBesideNoLowerSample :
    let s := signal [0x00050000, 0x00090000, 0x00090000, 0x00030000, 0x00090000, 0x00010000]
    s.length ≤ s.capacity ∧ (4 : Half).toNat < s.length ∧ (5 : Half).toNat + 1 = s.length ∧
    s.sample 1 ≤ s.sample (1 + 1) ∧ s.sample 3 < s.sample 4 := by
  decide

/-- No candidate; one candidate below the threshold; the second candidate largest; a lower threshold. -/
theorem witness_SelectTakesTheFirstOfTheLargest :
    (∀ k, k < State.reset.count →
      (State.reset.promOrZero (State.reset.candAt k).toNat).toInt < State.reset.minProm.toInt) ∧
    (let s := (signalB.withCandidates [3]).setMinProm 0x00280001
     ∀ k, k < s.count → (s.promOrZero (s.candAt k).toNat).toInt < s.minProm.toInt) ∧
    (let s := signalB.withCandidates [3, 7]
     1 < s.count ∧ s.minProm.toInt ≤ (s.promOrZero (s.candAt 1).toNat).toInt ∧
     (∀ j, j < s.count → (s.promOrZero (s.candAt j).toNat).toInt ≤ (s.promOrZero (s.candAt 1).toNat).toInt) ∧
     (∀ j, j < 1 → (s.promOrZero (s.candAt j).toNat).toInt < (s.promOrZero (s.candAt 1).toNat).toInt) ∧
     (0 : Word).toInt ≤ s.minProm.toInt ∧ (nextOf (exec .select s)).csr .status = 1) := by
  decide

theorem witness_FindSelectsTheMostProminentPeak :
    (ofLength 0).length = 0 ∧ (ofLength 257).capacity < (ofLength 257).length ∧
    (0 < (ofLength 1).length ∧ (ofLength 1).length < 3 ∧ (ofLength 1).length ≤ (ofLength 1).capacity) ∧
    (0 < (ofLength 2).length ∧ (ofLength 2).length < 3 ∧ (ofLength 2).length ≤ (ofLength 2).capacity) ∧
    (3 ≤ (ofLength 3).length ∧ (ofLength 3).length ≤ (ofLength 3).capacity) ∧
    (3 ≤ (ofLength 256).length ∧ (ofLength 256).length ≤ (ofLength 256).capacity) := by
  decide

theorem witness_FindTwiceChangesNothing : ∃ t, exec .find (loaded [10, 30, 10]) = .next t := ⟨_, rfl⟩

/-- Two states that differ in a register, an old result and an unused `SIG` cell. -/
theorem witness_FindDependsOnlyOnTheSignalAndThresholds :
    let s := loaded [10, 30, 10]
    let s' := (((loaded [10, 30, 10]).setReg .x1 7).setBest 4 5).writeSig 9 6
    s.len = s'.len ∧ s.params = s'.params ∧ s.minProm = s'.minProm ∧ s.minGrad = s'.minGrad ∧
    s.noiseFloor = s'.noiseFloor ∧ (∀ i, i < s.length → s.rawAt i = s'.rawAt i) ∧
    exec .find s = .next (nextOf (exec .find s)) ∧ exec .find s' = .next (nextOf (exec .find s')) ∧
    0 < s.length ∧ s.length ≤ s.capacity ∧ 0 < (nextOf (exec .find s)).count :=
  ⟨rfl, rfl, rfl, rfl, rfl, fun _ _ => rfl, rfl, rfl, by decide, by decide, by decide⟩

/-- The bounds of `CSRR` and `CSRW`, on both sides. -/
theorem witness_csr_number :
    (9 : Half).toNat ≤ 0x0009 ∧ 0x0009 < (10 : Half).toNat ∧ 0x0003 < (4 : Half).toNat ∧
    0x0003 < (0xFFFF : Half).toNat := by
  decide

/-- No error before; a bad index, a bad CSR number, and no error. -/
theorem witness_CommandErrorsArriveExactlyWhereListed :
    State.reset.cmdErr = .none ∧
    exec (.ldraw .x1 256) State.reset = .next (State.reset.raiseCmdErr .badIndex) ∧
    State.reset.capacity ≤ (256 : Half).toNat ∧
    exec (.csrw 4 .x1) State.reset = .next (State.reset.raiseCmdErr .badCsr) ∧
    exec .nop State.reset = .next State.reset :=
  ⟨rfl, rfl, by decide, rfl, rfl⟩

/-- An error recorded before, then another malformed word. -/
theorem witness_CmderrKeepsTheFirstError :
    let s := (State.reset.raiseCmdErr .badIndex).withPort [.command 0xFFFFFFFF]
    step s = .next (nextOf (step s)) ∧ s.port.head? ≠ some .reset ∧ s.cmdErr ≠ .none :=
  ⟨rfl, by decide, by decide⟩

theorem witness_CapsIsConstant :
    State.reset.params = Config.reference ∧
    ∃ t, step ({ signalB with params := { maxSignalLength := 12, maxPeaks := 3 } }.withPort [.reset]) = .next t := ⟨rfl, _, rfl⟩

/-- A command that changes LEN, and one for each threshold; `CFGDEF` after an override. -/
theorem witness_OnlyTheirWritersChangeLenAndThresholds :
    let s := State.reset.setReg .x1 5
    (exec (.push 1) s = .next (nextOf (exec (.push 1) s)) ∧ (nextOf (exec (.push 1) s)).len ≠ s.len) ∧
    (nextOf (exec (.csrw 1 .x1) s)).minProm ≠ s.minProm ∧ (nextOf (exec (.csrw 2 .x1) s)).minGrad ≠ s.minGrad ∧
    (nextOf (exec (.csrw 3 .x1) s)).noiseFloor ≠ s.noiseFloor ∧
    (nextOf (exec .cfgdef (s.setMinProm 5))).minProm ≠ (s.setMinProm 5).minProm :=
  ⟨⟨rfl, by decide⟩, by decide, by decide, by decide, by decide⟩

theorem witness_OnlyTheirWritersChangeTheResults :
    let s := loaded [10, 30, 10]
    let t := nextOf (exec .find s)
    exec .find s = .next t ∧ t.status ≠ s.status ∧ t.bestIdx ≠ s.bestIdx ∧ t.bestProm ≠ s.bestProm ∧
    t.candCount ≠ s.candCount :=
  ⟨rfl, by decide, by decide, by decide, by decide⟩

theorem witness_OnlyTheirWritersChangeTheBuffers :
    let s := ((loaded [10, 30, 10]).writeSig 1 0).withCandidates [0]
    exec (.straw 0 .x0) s = .next (nextOf (exec (.straw 0 .x0) s)) ∧
    (nextOf (exec (.straw 0 .x0) s)).rawAt 0 ≠ s.rawAt 0 ∧ (nextOf (exec .find s)).sigAt 1 ≠ s.sigAt 1 ∧
    (nextOf (exec .find s)).candAt 0 ≠ s.candAt 0 :=
  ⟨rfl, by decide, by decide, by decide⟩

theorem witness_OnlyTheDestinationRegisterChanges :
    exec (.tofix .x1 90) State.reset = .next (nextOf (exec (.tofix .x1 90) State.reset)) ∧
    (nextOf (exec (.tofix .x1 90) State.reset)).reg .x1 ≠ State.reset.reg .x1 :=
  ⟨rfl, by decide⟩

/-- The destination, and a register the command does not name. -/
theorem witness_OnlySourceRegistersAreRead :
    Reg.x3 ∉ sourcesOf (.satadd .x3 .x1 .x2) ∧ Reg.x5 ∉ sourcesOf (.satadd .x3 .x1 .x2) ∧
    ∃ t, exec (.satadd .x3 .x1 .x2) State.reset = .next t :=
  ⟨by decide, by decide, ⟨_, rfl⟩⟩

theorem witness_OutqOnlyGrowsAndIsNeverRead :
    exec (.out .x1) (State.reset.sendOut 9) = .next ((State.reset.sendOut 9).sendOut 0) := rfl

/-- A state with every kind of cell written, one candidate and a result, as `FIND` on [10, 30, 10] leaves it. -/
def selected : State :=
  { State.reset with
    len := 3
    status := .ok
    bestIdx := 1
    bestProm := 0x00140000
    candCount := 1
    mem := { raw := [(0, 10), (1, 30), (2, 10)], sig := [(0, 0x000A0000), (1, 0x001E0000), (2, 0x000A0000)],
             cand := [(0, 1)] } }

theorem test_selected : nextOf (exec .find (loaded [10, 30, 10])) = selected := by decide

/-- Three listed cells lie below any bound of three or more. -/
theorem three_cells {w : Nat} (a b c : BitVec w) (i : Nat)
    (h : (Cells.get? [(0, a), (1, b), (2, c)] i).isSome = true) : i < 256 := by
  simp only [Cells.get?] at h
  split at h
  · simp at h
  · split at h
    · omega
    · split at h
      · simp at h
      · split at h
        · omega
        · split at h
          · simp at h
          · split at h <;> [omega; simp at h]

theorem witness_StepKeepsTheMemoryCanonical :
    MemoryInv (selected.withPort [.command 0x2000000A]) ∧
    ∃ t, step (selected.withPort [.command 0x2000000A]) = .next t := by
  refine ⟨⟨by decide, fun i h => three_cells _ _ _ i h, fun i h => three_cells _ _ _ i h, fun i h => ?_⟩, _, rfl⟩
  change (Cells.get? [(0, (1 : Half))] i).isSome = true at h
  change i < 16
  simp only [Cells.get?] at h
  split at h
  · simp at h
  · split at h <;> [omega; simp at h]

theorem witness_StepKeepsTheCandidateListOrdered :
    CandidateInv (selected.withPort [.command 0x54000000]) ∧ ResultInv (selected.withPort [.command 0x54000000]) ∧
    ∃ t, step (selected.withPort [.command 0x54000000]) = .next t := by
  refine ⟨⟨by decide, fun k hk => ?_, fun j k hj hk => ?_⟩, ⟨by decide, .inr (by decide), nofun, nofun⟩, _, rfl⟩
  · have hk : k < 1 := hk
    obtain rfl : k = 0 := by omega
    decide
  · have hk : k < 1 := hk
    omega

end Sys2Proof.Machine
end

/-! ## The step and the run (00_scope.md R14, R16, R18): the step's equation for each next input, one step, then any number -/

namespace Sys2Proof.Machine

/-! ### What `step` answers, for each input the host can give next -/

theorem step_of_port_nil {s : State} (hp : s.port = []) : step s = .next s := by
  simp only [step, hp]

theorem step_of_reset {s : State} {rest : List HostInput} (hp : s.port = .reset :: rest) :
    step s = .next (s.withPort rest).applyReset := by
  simp only [step, hp]

theorem step_of_decode_ok {s : State} {w : Word} {rest : List HostInput} {i : Instr}
    (hp : s.port = .command w :: rest) (hd : decode w = .ok i) : step s = exec i (s.withPort rest) := by
  simp only [step, hp, hd]

theorem step_of_decode_error {s : State} {w : Word} {rest : List HostInput} {e : DecodeError}
    (hp : s.port = .command w :: rest) (hd : decode w = .error e) :
    step s = .next ((s.withPort rest).raiseCmdErr (decodeCause e)) := by
  simp only [step, hp, hd]

/-! ### Completion -/

/-- No command is stopped or refused, and none looks at the host's later inputs. -/
theorem exec_completes_keeping_port (i : Instr) (s : State) : ∃ t, exec i s = .next t ∧ t.port = s.port := by
  obtain ⟨t, hexec, heffect⟩ := exec_effect i s
  obtain ⟨-, hport, -⟩ := heffect.keeps
  exact ⟨t, hexec, hport⟩

theorem step_completes_taking_head (s : State) : ∃ t, step s = .next t ∧ t.port = s.port.tail := by
  match hp : s.port with
  | [] => exact ⟨s, step_of_port_nil hp, hp⟩
  | .reset :: rest => exact ⟨_, step_of_reset hp, by simp⟩
  | .command w :: rest =>
    match hd : decode w with
    | .ok i =>
      obtain ⟨t, hexec, hport⟩ := exec_completes_keeping_port i (s.withPort rest)
      exact ⟨t, (step_of_decode_ok hp hd).trans hexec, by simpa using hport⟩
    | .error e => exact ⟨_, step_of_decode_error hp hd, by simp⟩

/-- A run that begins with a completing step goes on from the state that step leaves. -/
theorem run_succ_of_step {s t : State} (h : step s = .next t) (k : Nat) :
    Sys2Proof.core.run (k + 1) s = Sys2Proof.core.run k t := by
  have hcore : Sys2Proof.core.step s = .next t := h
  simp only [Host.Core.run, hcore]

/-- `k` steps complete from every state and take the host's first `k` inputs. -/
theorem run_completes_dropping_inputs (k : Nat) (s : State) :
    ∃ t : State, Sys2Proof.core.run k s = .next t ∧ t.port = s.port.drop k := by
  induction k generalizing s with
  | zero => exact ⟨s, rfl, rfl⟩
  | succ k ih =>
    obtain ⟨s', hstep, htail⟩ := step_completes_taking_head s
    obtain ⟨t, hrun, hdrop⟩ := ih s'
    exact ⟨t, (run_succ_of_step hstep k).trans hrun, by rw [hdrop, htail, List.drop_tail]⟩

/-! ### The obligations -/

/-- Settles O5: the step's equation at a word that decodes. -/
theorem stepRunsTheDecodedCommand : Obligations.StepRunsTheDecodedCommand :=
  fun _ _ _ _ hp hd => step_of_decode_ok hp hd

/-- Settles O8, by cases on the next input; for a command, by the effects `exec_effect` lists. -/
theorem everyStepCompletesAndTakesOneInput : Obligations.EveryStepCompletesAndTakesOneInput :=
  step_completes_taking_head

/-- Settles O10: as many steps as there are inputs leave none of them. -/
theorem everyRunCompletes : Obligations.EveryRunCompletes := by
  intro s inputs
  obtain ⟨t, hrun, hport⟩ := run_completes_dropping_inputs inputs.length (s.withPort inputs)
  exact ⟨t, hrun, by simpa using hport⟩

end Sys2Proof.Machine

/-! ## The state (10_state.md): which command writes which item, which registers and queue words reach a command's effect, and
the invariants every step keeps -/

namespace Sys2Proof.Machine

/-! ### Who writes what, read off the effects of a command -/

section Writers

variable {i : Instr} {s t : State}

theorem Effect.writer_of_len (h : Effect i s t) (hne : t.len ≠ s.len) :
    (∃ imm, i = .push imm) ∨ ∃ rs1, i = .csrw 0 rs1 := by
  cases h with
  | push imm hi => exact .inl ⟨imm, hi⟩
  | csrLen rs1 _ hi => exact .inr ⟨rs1, hi⟩
  | _ => exact absurd (by simp) hne

theorem Effect.writer_of_minProm (h : Effect i s t) (hne : t.minProm ≠ s.minProm) :
    i = .cfgdef ∨ ∃ rs1, i = .csrw 1 rs1 := by
  cases h with
  | defaults hi => exact .inl hi
  | csrMinProm rs1 _ hi => exact .inr ⟨rs1, hi⟩
  | _ => exact absurd (by simp) hne

theorem Effect.writer_of_minGrad (h : Effect i s t) (hne : t.minGrad ≠ s.minGrad) :
    i = .cfgdef ∨ ∃ rs1, i = .csrw 2 rs1 := by
  cases h with
  | defaults hi => exact .inl hi
  | csrMinGrad rs1 _ hi => exact .inr ⟨rs1, hi⟩
  | _ => exact absurd (by simp) hne

theorem Effect.writer_of_noiseFloor (h : Effect i s t) (hne : t.noiseFloor ≠ s.noiseFloor) :
    i = .cfgdef ∨ ∃ rs1, i = .csrw 3 rs1 := by
  cases h with
  | defaults hi => exact .inl hi
  | csrNoiseFloor rs1 _ hi => exact .inr ⟨rs1, hi⟩
  | _ => exact absurd (by simp) hne

theorem Effect.writer_of_status (h : Effect i s t) (hne : t.status ≠ s.status) :
    i = .conv ∨ i = .detect ∨ i = .select ∨ i = .find := by
  cases h with
  | status _ hi | conv hi => exact .inl hi
  | detectFails _ hi | detect hi => exact .inr (.inl hi)
  | select hi => exact .inr (.inr (.inl hi))
  | findInvalid hi | findShort hi | findNone hi | find hi => exact .inr (.inr (.inr hi))
  | _ => exact absurd (by simp) hne

theorem Effect.writer_of_best (h : Effect i s t) (hne : ¬ (t.bestIdx = s.bestIdx ∧ t.bestProm = s.bestProm)) :
    i = .select ∨ i = .find := by
  cases h with
  | select hi => exact .inl hi
  | findInvalid hi | findShort hi | findNone hi | find hi => exact .inr hi
  | _ => exact absurd (by simp) hne

/-- The candidate list is its count and its cells: `DETECT` and `FIND` alone write either. -/
theorem Effect.writer_of_candidates (h : Effect i s t)
    (hne : ¬ (t.candCount = s.candCount ∧ t.mem.cand = s.mem.cand)) : i = .detect ∨ i = .find := by
  cases h with
  | detectFails _ hi | detect hi => exact .inl hi
  | findInvalid hi | findShort hi | findNone hi | find hi => exact .inr hi
  | _ => exact absurd (by simp) hne

theorem Effect.writer_of_rawAt {j : Nat} (h : Effect i s t) (hne : t.rawAt j ≠ s.rawAt j) :
    (∃ imm, i = .push imm) ∨ ∃ idx rs1, i = .straw idx rs1 := by
  cases h with
  | push imm hi => exact .inl ⟨imm, hi⟩
  | raw idx rs1 _ hi => exact .inr ⟨idx, rs1, hi⟩
  | _ => exact absurd (by simp) hne

theorem Effect.writer_of_sigAt {j : Nat} (h : Effect i s t) (hne : t.sigAt j ≠ s.sigAt j) :
    i = .conv ∨ i = .find ∨ ∃ idx rs1, i = .stsig idx rs1 := by
  cases h with
  | status _ hi | conv hi => exact .inl hi
  | findInvalid hi | findShort hi | findNone hi | find hi => exact .inr (.inl hi)
  | sig idx rs1 _ hi => exact .inr (.inr ⟨idx, rs1, hi⟩)
  | _ => exact absurd (by simp) hne

theorem Effect.writer_of_candAt {j : Nat} (h : Effect i s t) (hne : t.candAt j ≠ s.candAt j) :
    i = .detect ∨ i = .find := by
  obtain ⟨-, -, hresets⟩ := h.keeps
  refine h.writer_of_candidates fun ⟨_, hcand⟩ => hne ?_
  simp only [State.candAt, hcand, hresets]

theorem Effect.writer_of_reg {r : Reg} (h : Effect i s t) (hne : t.reg r ≠ s.reg r) : destinationOf i = some r := by
  cases h with
  | reg rd v hd =>
    rw [State.setReg_reg] at hne
    have hr : r = rd := by
      by_contra hr
      exact hne (if_neg hr)
    rwa [hr]
  | _ => exact absurd (by simp) hne

theorem Effect.outq_eq_or_append (h : Effect i s t) :
    t.outq = s.outq ∨ ∃ rs1, i = .out rs1 ∧ t.outq = s.outq ++ [s.reg rs1] := by
  cases h with
  | out rs1 hi => exact .inr ⟨rs1, hi, rfl⟩
  | _ => exact .inl (by simp)

/-- A command that finds an error recorded leaves it (10_state.md R35). -/
theorem Effect.cmdErr_of_recorded (h : Effect i s t) (he : s.cmdErr ≠ .none) : t.cmdErr = s.cmdErr := by
  cases h with
  | error code => rw [State.raiseCmdErr_cmdErr, if_neg he]
  | _ => simp

end Writers

/-! ### What every step keeps -/

/-- A property every step keeps: it survives taking an input, a command error, the reset input and every effect of a
command. -/
theorem step_preserves {P : State → Prop} (hport : ∀ {s} rest, P s → P (s.withPort rest))
    (herror : ∀ {s} code, P s → P (s.raiseCmdErr code)) (hreset : ∀ {s}, P s → P s.applyReset)
    (heffect : ∀ {i s t}, P s → Effect i s t → P t) {s t : State} (hs : P s) (h : step s = .next t) : P t := by
  rcases step_cases h with ⟨-, rfl⟩ | ⟨rest, -, rfl⟩ | ⟨_, rest, _, -, -, hexec⟩ | ⟨_, rest, _, -, -, rfl⟩
  · exact hs
  · exact hreset (hport rest hs)
  · exact heffect (hport rest hs) (exec_cases hexec)
  · exact herror _ (hport rest hs)

theorem step_params {s t : State} (h : step s = .next t) : t.params = s.params :=
  step_preserves (P := fun u => u.params = s.params) (fun _ hu => hu) (fun _ hu => by simpa using hu) (fun hu => hu)
    (fun hu he => he.keeps.1.trans hu) rfl h

/-! ### The CSRs that no command writes -/

theorem exec_csrw_refused (s : State) {csr : Half} (rs1 : Reg) (h : 0x0003 < csr.toNat) :
    exec (.csrw csr rs1) s = .next (s.raiseCmdErr .badCsr) := by
  simp only [exec, execCsrw, s.writeCsr_refused (s.reg rs1) h]

theorem State.csr_cmdErr_le (s : State) : (s.csr .cmdErr).toNat ≤ 4 := by
  simp only [State.csr, zext32_toNat _ (show 3 ≤ 32 by decide)]
  cases s.cmdErr <;> decide

theorem State.csr_caps_toNat (s : State) :
    (s.csr .caps).toNat = s.params.maxPeaks.toNat * 65536 + s.params.maxSignalLength.toNat :=
  joinHalves_toNat ..

theorem State.csr_caps_congr {s t : State} (h : t.params = s.params) : t.csr .caps = s.csr .caps := by
  simp only [State.csr, h]

/-! ### The candidate invariant -/

/-- The candidate invariant speaks of the candidate list, the parameters and the free values only. -/
theorem CandidateInv.congr {s t : State} (hs : CandidateInv s) (hcount : t.candCount = s.candCount)
    (hcand : t.mem.cand = s.mem.cand) (hparams : t.params = s.params) (hresets : t.resets = s.resets) :
    CandidateInv t := by
  simpa only [CandidateInv, State.count, State.peakCapacity, State.capacity, State.candAt, hcount, hcand, hparams,
    hresets] using hs

/-- An empty candidate list meets the invariant. -/
theorem CandidateInv.of_empty {s : State} (h : s.candCount = 0) : CandidateInv s := by
  have hcount : s.count = 0 := by simp [State.count, h]
  refine ⟨by omega, fun k hk => ?_, fun j k _ hk => ?_⟩ <;> omega

/-- Detection lists at most MAX_PEAKS accepted indices, which are interior and come in ascending order (R124). -/
theorem State.detect_candidateInv (s : State) (hlen : s.length ≤ s.capacity) : CandidateInv s.detect := by
  have hcount := s.detect_count
  have hat := s.detect_candAt
  refine ⟨by simp only [State.detect_peakCapacity]; omega, fun k hk => ?_, fun j k hjk hk => ?_⟩
  · have hwritten : (s.detect.mem.cand.get? k).isSome = true := by
      rw [State.detect_cand_get?, if_pos hk, List.getElem?_eq_getElem (show k < s.accepted.length by omega)]
      rfl
    obtain ⟨hfirst, hlast, -⟩ := (s.mem_accepted _).1 (List.mem_of_getElem? (hat k hk))
    exact ⟨hwritten, hfirst, by simp only [State.detect_capacity]; omega⟩
  · have hsorted : s.accepted.Pairwise (· < ·) := acceptedFrom_pairwise ..
    obtain ⟨hj, hjv⟩ := List.getElem?_eq_some_iff.1 (hat j (by omega))
    obtain ⟨hk', hkv⟩ := List.getElem?_eq_some_iff.1 (hat k hk)
    rw [← hjv, ← hkv]
    exact List.pairwise_iff_getElem.1 hsorted j k hj hk' hjk

theorem State.found_candidateInv (s : State) (hlen : s.length ≤ s.capacity) : CandidateInv s.found :=
  State.detect_candidateInv _ hlen

theorem Effect.keeps_candidateInv {i : Instr} {s t : State} (hs : CandidateInv s) (h : Effect i s t) :
    CandidateInv t := by
  cases h with
  | detectFails | findShort => exact .of_empty (by simp)
  | detect _ _ hl => exact (State.detect_candidateInv _ hl).congr rfl rfl rfl rfl
  | findNone _ _ hl => exact (s.found_candidateInv hl).congr rfl rfl rfl rfl
  | find _ _ hl =>
    exact (s.found_candidateInv hl).congr (State.recordBest_candCount ..) (by rw [State.recordBest_mem]; rfl)
      (State.recordBest_params ..) (State.recordBest_resets ..)
  | _ => exact hs.congr (by simp) (by simp) (by simp) (by simp)

theorem step_keeps_candidateInv {s t : State} (hs : CandidateInv s) (h : step s = .next t) : CandidateInv t :=
  step_preserves (fun _ hu => hu) (fun _ hu => hu.congr (by simp) (by simp) (by simp) (by simp))
    (fun _ => .of_empty rfl) Effect.keeps_candidateInv hs h

/-! ### The result invariant -/

/-- The result invariant speaks of the result registers, STATUS, CAND_COUNT and the parameters only. -/
theorem ResultInv.congr {s t : State} (hs : ResultInv s) (hidx : t.bestIdx = s.bestIdx) (hprom : t.bestProm = s.bestProm)
    (hstatus : t.status = s.status) (hcount : t.candCount = s.candCount) (hparams : t.params = s.params) :
    ResultInv t := by
  simpa only [ResultInv, State.count, State.capacity, hidx, hprom, hstatus, hcount, hparams] using hs

/-- Results kept under a status other than NONE and NO_PEAK stay as they were left. -/
theorem ResultInv.of_status {s t : State} (hs : ResultInv s) (hidx : t.bestIdx = s.bestIdx)
    (hprom : t.bestProm = s.bestProm) (hparams : t.params = s.params) (hnone : t.status ≠ .none)
    (hnoPeak : t.status ≠ .noPeak) : ResultInv t := by
  obtain ⟨hnonneg, hinterior, -, -⟩ := hs
  refine ⟨by rwa [hprom], ?_, fun h => absurd h hnoPeak, fun h => absurd h hnone⟩
  simpa only [State.capacity, hidx, hparams] using hinterior

/-- Cleared results meet the invariant under every status but NONE. -/
theorem ResultInv.of_cleared {s : State} (hidx : s.bestIdx = 0) (hprom : s.bestProm = 0) (hnone : s.status ≠ .none) :
    ResultInv s :=
  ⟨by rw [hprom]; decide, .inl hidx, fun _ => ⟨hidx, hprom⟩, fun h => absurd h hnone⟩

/-- Selection from an admissible candidate list with the results cleared (R144, R146): what it finds is an interior index
and its prominence, and when it finds nothing the results stay cleared. -/
theorem State.recordBest_resultInv (s : State) (hcand : CandidateInv s) (hidx : s.bestIdx = 0) (hprom : s.bestProm = 0) :
    ResultInv (s.recordBest (s.selectFirst s.count)) := by
  obtain ⟨-, hlisted, -⟩ := hcand
  rcases s.selectFirst_spec s.count with ⟨hfound, -⟩ | ⟨hfound, k, hk, -, hbest, hat, -, -⟩
  · rw [State.recordBest_not_found _ _ hfound]
    exact .of_cleared hidx hprom nofun
  · obtain ⟨hstatus, hi, hp⟩ := s.recordBest_found _ hfound
    obtain ⟨-, hfirst, hlast⟩ := hlisted k hk
    refine ⟨?_, .inr ?_, fun h => ?_, fun h => ?_⟩
    · rw [hp, hbest]
      exact s.promOrZero_nonneg _
    · rw [hi, hat, State.recordBest_capacity]
      exact ⟨hfirst, hlast⟩
    all_goals simp [hstatus] at h

theorem Effect.keeps_resultInv {i : Instr} {s t : State} (hc : CandidateInv s) (hs : ResultInv s) (h : Effect i s t) :
    ResultInv t := by
  cases h with
  | status c _ hnone hnoPeak => exact hs.of_status rfl rfl rfl hnone hnoPeak
  | detectFails c _ hnone hnoPeak => exact hs.of_status rfl rfl rfl hnone hnoPeak
  | conv | detect => exact hs.of_status rfl rfl rfl nofun nofun
  | select => exact State.recordBest_resultInv (s.setBest 0 0) (hc.congr rfl rfl rfl rfl) rfl rfl
  | findInvalid | findShort | findNone => exact .of_cleared rfl rfl nofun
  | find _ _ hl => exact State.recordBest_resultInv s.found (s.found_candidateInv hl) rfl rfl
  | _ => exact hs.congr (by simp) (by simp) (by simp) (by simp) (by simp)

theorem State.applyReset_resultInv (s : State) : ResultInv s.applyReset :=
  ⟨by simp, .inl rfl, fun _ => ⟨rfl, rfl⟩, fun _ => ⟨rfl, rfl, rfl⟩⟩

/-- The two invariants are kept together: selection relies on the candidates. -/
theorem step_keeps_resultInv {s t : State} (hc : CandidateInv s) (hs : ResultInv s) (h : step s = .next t) :
    ResultInv t := by
  have hboth : CandidateInv t ∧ ResultInv t :=
    step_preserves (P := fun u => CandidateInv u ∧ ResultInv u) (fun _ hu => hu)
      (fun _ ⟨hc, hr⟩ => ⟨hc.congr (by simp) (by simp) (by simp) (by simp),
        hr.congr (by simp) (by simp) (by simp) (by simp) (by simp)⟩)
      (fun {u} _ => ⟨.of_empty rfl, u.applyReset_resultInv⟩)
      (fun ⟨hc, hr⟩ he => ⟨he.keeps_candidateInv hc, he.keeps_resultInv hc hr⟩) ⟨hc, hs⟩ h
  exact hboth.2

/-! ### Registers and OUTQ: what reaches a command's effect -/

/-- The state with other scalar registers and another response queue. -/
def State.withRegsOutq (s : State) (x : Regs) (q : List Word) : State := { s with regs := x, outq := q }

section Twin

variable (s : State) (x : Regs) (q : List Word)

theorem State.withRegsOutq_csr (c : Csr) : (s.withRegsOutq x q).csr c = s.csr c := by cases c <;> rfl

theorem State.withRegsOutq_raiseCmdErr (code : CmdErr) :
    (s.withRegsOutq x q).raiseCmdErr code = (s.raiseCmdErr code).withRegsOutq x q := by
  rw [State.raiseCmdErr_eq, State.raiseCmdErr_eq]
  rfl

theorem State.withRegsOutq_selectFirst (n : Nat) : (s.withRegsOutq x q).selectFirst n = s.selectFirst n :=
  State.selectFirst_congr s _ n rfl (fun _ _ => rfl) fun _ _ => rfl

theorem State.withRegsOutq_recordBest (b : Best) :
    (s.withRegsOutq x q).recordBest b = (s.recordBest b).withRegsOutq x q := by
  unfold State.recordBest
  split <;> rfl

/-- One command run in two states that differ in scalar registers and OUTQ only. -/
inductive TwinEffect (i : Instr) : Prop
  /-- It writes the same value to its destination in both. -/
  | writesReg (rd : Reg) (v : Word) (hd : destinationOf i = some rd) (h : exec i s = .next (s.setReg rd v))
      (h' : exec i (s.withRegsOutq x q) = .next ((s.withRegsOutq x q).setReg rd v))
  /-- It sends the same word in both. -/
  | sends (v : Word) (h : exec i s = .next (s.sendOut v))
      (h' : exec i (s.withRegsOutq x q) = .next ((s.withRegsOutq x q).sendOut v))
  /-- It has the same effect elsewhere and touches neither in either. -/
  | elsewhere (t : State) (hregs : t.regs = s.regs) (houtq : t.outq = s.outq) (h : exec i s = .next t)
      (h' : exec i (s.withRegsOutq x q) = .next (t.withRegsOutq x q))

variable {s x q}

/-- A command error is an effect elsewhere. -/
theorem TwinEffect.error {i : Instr} {code : CmdErr} (h : exec i s = .next (s.raiseCmdErr code))
    (h' : exec i (s.withRegsOutq x q) = .next ((s.withRegsOutq x q).raiseCmdErr code)) : TwinEffect s x q i :=
  .elsewhere _ (by simp) (by simp) h (by rw [h', State.withRegsOutq_raiseCmdErr])

/-- Selection with its outcome recorded, the last stage of `SELECT` and `FIND`, is an effect elsewhere. -/
theorem TwinEffect.selection {i : Instr} (u : State) (hregs : u.regs = s.regs) (houtq : u.outq = s.outq)
    (h : exec i s = .next (u.recordBest (u.selectFirst u.count)))
    (h' : exec i (s.withRegsOutq x q) =
      .next ((u.withRegsOutq x q).recordBest ((u.withRegsOutq x q).selectFirst u.count))) : TwinEffect s x q i :=
  .elsewhere _ ((u.recordBest_regs _).trans hregs) ((u.recordBest_outq _).trans houtq) h
    (by rw [h', State.withRegsOutq_selectFirst, State.withRegsOutq_recordBest])

theorem exec_twin_csrr (rd : Reg) (csr : Half) : TwinEffect s x q (.csrr rd csr) := by
  cases hc : Csr.ofNum csr with
  | some c =>
    refine .writesReg rd (s.csr c) rfl ?_ ?_
    · simp only [exec, execCsrr, hc]
    · simp only [exec, execCsrr, hc, State.withRegsOutq_csr]
  | none => exact .error (code := .badCsr) (by simp only [exec, execCsrr, hc]) (by simp only [exec, execCsrr, hc])

theorem exec_twin_csrw (csr : Half) (rs1 : Reg) (hsrc : x.get rs1 = s.reg rs1) : TwinEffect s x q (.csrw csr rs1) := by
  have hreg : (s.withRegsOutq x q).reg rs1 = s.reg rs1 := hsrc
  by_cases hn : 0x0003 < csr.toNat
  · exact .error (exec_csrw_refused _ _ hn) (exec_csrw_refused _ _ hn)
  · rcases Csr.num_le_three (Nat.not_lt.1 hn) with rfl | rfl | rfl | rfl
    · exact .elsewhere (s.setLen (lowHalf (s.reg rs1))) rfl rfl rfl (by rw [← hreg]; rfl)
    · exact .elsewhere (s.setMinProm (s.reg rs1)) rfl rfl rfl (by rw [← hreg]; rfl)
    · exact .elsewhere (s.setMinGrad (s.reg rs1)) rfl rfl rfl (by rw [← hreg]; rfl)
    · exact .elsewhere (s.setNoiseFloor (s.reg rs1)) rfl rfl rfl (by rw [← hreg]; rfl)

theorem exec_twin_conv : TwinEffect s x q .conv := by
  by_cases h : s.lengthInvalid = true
  · exact .elsewhere (s.setStatus .invalidInput) rfl rfl (if_pos h) (if_pos h)
  · exact .elsewhere (s.convert.setStatus .ok) rfl rfl (if_neg h) (if_neg h)

theorem exec_twin_detect : TwinEffect s x q .detect := by
  by_cases hlarge : s.lengthTooLarge = true
  · exact .elsewhere ((s.setCandCount 0).setStatus .invalidInput) rfl rfl (if_pos hlarge) (if_pos hlarge)
  · by_cases hsmall : s.lengthTooSmall = true
    · exact .elsewhere ((s.setCandCount 0).setStatus .bufferTooSmall) rfl rfl ((if_neg hlarge).trans (if_pos hsmall))
        ((if_neg hlarge).trans (if_pos hsmall))
    · exact .elsewhere ((s.setCandCount 0).detect.setStatus .ok) rfl rfl ((if_neg hlarge).trans (if_neg hsmall))
        ((if_neg hlarge).trans (if_neg hsmall))

theorem exec_twin_find : TwinEffect s x q .find := by
  by_cases hinvalid : s.length = 0 ∨ s.capacity < s.length
  · exact .elsewhere ((s.setBest 0 0).setStatus .invalidInput) rfl rfl (exec_find_invalid s hinvalid)
      (exec_find_invalid _ hinvalid)
  · obtain ⟨hpos, hcap⟩ : 0 < s.length ∧ s.length ≤ s.capacity := by omega
    by_cases hshort : s.length < 3
    · exact .elsewhere (((s.setBest 0 0).convert.setCandCount 0).setStatus .bufferTooSmall) rfl rfl
        (exec_find_short s hpos hshort hcap) (exec_find_short _ hpos hshort hcap)
    · have h3 : 3 ≤ s.length := by omega
      exact .selection s.found rfl rfl (exec_find s h3 hcap) (exec_find _ h3 hcap)

/-- Two states that differ in OUTQ and in registers that are no source of a command are told apart by it nowhere else. -/
theorem exec_twin (i : Instr) (hsrc : ∀ r ∈ sourcesOf i, x.get r = s.reg r) : TwinEffect s x q i := by
  have hreg : ∀ r ∈ sourcesOf i, (s.withRegsOutq x q).reg r = s.reg r := hsrc
  cases i with
  | nop => exact .elsewhere s rfl rfl rfl rfl
  | tofix rd imm => exact .writesReg rd (tofix imm) rfl rfl rfl
  | setlo rd imm =>
    exact .writesReg rd _ rfl rfl (by simp only [exec, execSetlo, hreg rd (by simp [sourcesOf])])
  | fromfix rd rs1 =>
    exact .writesReg rd _ rfl rfl (by simp only [exec, execFromfix, hreg rs1 (by simp [sourcesOf])])
  | satadd rd rs1 rs2 =>
    exact .writesReg rd _ rfl rfl
      (by simp only [exec, execSatadd, hreg rs1 (by simp [sourcesOf]), hreg rs2 (by simp [sourcesOf])])
  | satsub rd rs1 rs2 =>
    exact .writesReg rd _ rfl rfl
      (by simp only [exec, execSatsub, hreg rs1 (by simp [sourcesOf]), hreg rs2 (by simp [sourcesOf])])
  | satmul rd rs1 rs2 =>
    exact .writesReg rd _ rfl rfl
      (by simp only [exec, execSatmul, hreg rs1 (by simp [sourcesOf]), hreg rs2 (by simp [sourcesOf])])
  | push imm =>
    by_cases h : s.capacity ≤ s.length
    · exact .error (if_pos h) (if_pos h)
    · exact .elsewhere ((s.writeRaw s.length imm).setLen (s.len + 1)) rfl rfl (if_neg h) (if_neg h)
  | ldraw rd idx =>
    by_cases h : s.signalIndexOk idx = true
    · exact .writesReg rd (sext32 (s.rawAt idx.toNat)) rfl (if_pos h) (if_pos h)
    · exact .error (if_neg h) (if_neg h)
  | straw idx rs1 =>
    by_cases h : s.signalIndexOk idx = true
    · refine .elsewhere (s.writeRaw idx.toNat (lowHalf (s.reg rs1))) rfl rfl (if_pos h) ?_
      rw [← hreg rs1 (by simp [sourcesOf])]
      exact if_pos h
    · exact .error (if_neg h) (if_neg h)
  | ldsig rd idx =>
    by_cases h : s.signalIndexOk idx = true
    · exact .writesReg rd (s.sigAt idx.toNat) rfl (if_pos h) (if_pos h)
    · exact .error (if_neg h) (if_neg h)
  | stsig idx rs1 =>
    by_cases h : s.signalIndexOk idx = true
    · refine .elsewhere (s.writeSig idx.toNat (s.reg rs1)) rfl rfl (if_pos h) ?_
      rw [← hreg rs1 (by simp [sourcesOf])]
      exact if_pos h
    · exact .error (if_neg h) (if_neg h)
  | ldcand rd k =>
    by_cases h : s.candIndexOk k = true
    · exact .writesReg rd (zext32 (s.candAt k.toNat)) rfl (if_pos h) (if_pos h)
    · exact .error (if_neg h) (if_neg h)
  | grad rd idx =>
    by_cases h : s.gradIndexOk idx = true
    · exact .writesReg rd (gradient s.sigAt s.length idx.toNat) rfl (if_pos h) (if_pos h)
    · exact .error (if_neg h) (if_neg h)
  | prom rd idx => exact .writesReg rd (s.promOrZero idx.toNat) rfl rfl rfl
  | conv => exact exec_twin_conv
  | detect => exact exec_twin_detect
  | select => exact .selection (s.setBest 0 0) rfl rfl (exec_select s) (exec_select _)
  | find => exact exec_twin_find
  | csrr rd csr => exact exec_twin_csrr rd csr
  | csrw csr rs1 => exact exec_twin_csrw csr rs1 (hsrc rs1 (by simp [sourcesOf]))
  | cfgdef => exact .elsewhere s.setDefaultThresholds rfl rfl rfl rfl
  | out rs1 => exact .sends _ rfl (by simp only [exec, execOut, hreg rs1 (by simp [sourcesOf])])

end Twin

theorem Regs.eq_of_get {x y : Regs} (h : ∀ r, x.get r = y.get r) : x = y := by
  cases x
  cases y
  rw [Regs.mk.injEq]
  exact ⟨h .x0, h .x1, h .x2, h .x3, h .x4, h .x5, h .x6, h .x7⟩

theorem Regs.set_set_self (x : Regs) (r : Reg) (v v' : Word) : (x.set r v).set r v' = x.set r v' := by
  cases r <;> rfl

theorem Regs.set_set_comm (x : Regs) {r r' : Reg} (v v' : Word) (h : r ≠ r') :
    (x.set r v).set r' v' = (x.set r' v').set r v := by
  refine Regs.eq_of_get fun k => ?_
  by_cases hk : k = r
  · subst hk
    simp [h]
  · by_cases hk' : k = r'
    · subst hk'
      simp [hk]
    · simp [hk, hk']

theorem State.setReg_setReg_self (s : State) (r : Reg) (v v' : Word) : (s.setReg r v).setReg r v' = s.setReg r v' := by
  simp only [State.setReg, Regs.set_set_self]

theorem State.setReg_setReg_comm (s : State) {r r' : Reg} (v v' : Word) (h : r ≠ r') :
    (s.setReg r v).setReg r' v' = (s.setReg r' v').setReg r v := by
  simp only [State.setReg, Regs.set_set_comm _ _ _ h]

/-- With another value in a register that is no source, a command leaves the same state up to that register. -/
theorem exec_setReg_of_not_source {i : Instr} {s t : State} {r : Reg} (v : Word) (hr : r ∉ sourcesOf i)
    (h : exec i s = .next t) :
    ∃ t', exec i (s.setReg r v) = .next t' ∧ (t' = t.setReg r v ∨ (t' = t ∧ destinationOf i = some r)) := by
  have hsrc : ∀ r' ∈ sourcesOf i, (s.regs.set r v).get r' = s.reg r' :=
    fun r' hr' => Regs.get_set_ne _ _ fun heq => hr (heq ▸ hr')
  cases exec_twin (q := s.outq) i hsrc with
  | writesReg rd u hd h1 h2 =>
    cases h.symm.trans h1
    refine ⟨_, h2, ?_⟩
    by_cases heq : r = rd
    · subst heq
      exact .inr ⟨s.setReg_setReg_self .., hd⟩
    · exact .inl (s.setReg_setReg_comm _ _ heq)
  | sends u h1 h2 =>
    cases h.symm.trans h1
    exact ⟨_, h2, .inl rfl⟩
  | elsewhere u hregs houtq h1 h2 =>
    cases h.symm.trans h1
    exact ⟨_, h2, .inl (by rw [← hregs, ← houtq]; rfl)⟩

/-- Words in front of OUTQ stay in front of it and reach nothing else. -/
theorem exec_outq_append {i : Instr} {s t : State} (q : List Word) (h : exec i s = .next t) :
    exec i { s with outq := q ++ s.outq } = .next { t with outq := q ++ t.outq } := by
  cases exec_twin (x := s.regs) (q := q ++ s.outq) i fun _ _ => rfl with
  | writesReg rd u _ h1 h2 =>
    cases h.symm.trans h1
    exact h2
  | sends u h1 h2 =>
    cases h.symm.trans h1
    refine h2.trans ?_
    simp only [State.sendOut, State.withRegsOutq, List.append_assoc]
  | elsewhere u hregs houtq h1 h2 =>
    cases h.symm.trans h1
    refine h2.trans ?_
    rw [← hregs, ← houtq]
    rfl

/-! ### Reset values -/

theorem State.reset_holdsResetValues : HoldsResetValues State.reset :=
  ⟨fun r => by cases r <;> rfl, rfl, rfl, rfl, rfl, rfl, rfl, rfl, rfl, rfl, rfl⟩

/-- The reset input leaves in every item 10_state.md section 6 names what State.reset holds. -/
theorem State.applyReset_holdsResetValues (s : State) : HoldsResetValues s.applyReset := State.reset_holdsResetValues

theorem State.reset_memoryInv : MemoryInv State.reset :=
  ⟨State.reset_mem_wf, nofun, nofun, nofun⟩

theorem State.reset_resultInv : ResultInv State.reset :=
  ⟨by decide, .inl rfl, fun _ => ⟨rfl, rfl⟩, fun _ => ⟨rfl, rfl, rfl⟩⟩

/-! ### The obligations -/

/-- Settles O57: detection leaves the accepted indices of the scan, in order; every other effect keeps the list or empties
it. -/
theorem stepKeepsTheCandidateListOrdered : Obligations.StepKeepsTheCandidateListOrdered :=
  fun _ _ => step_keeps_candidateInv

/-- Settles O58: what selection records is an interior candidate with its prominence, by the candidate invariant. -/
theorem stepKeepsTheResultsConsistent : Obligations.StepKeepsTheResultsConsistent :=
  fun _ _ => step_keeps_resultInv

/-- Settles O47, by the effects of a command: the one effect that writes CMDERR keeps a recorded code. -/
theorem cmderrKeepsTheFirstError : Obligations.CmderrKeepsTheFirstError := by
  refine ⟨rfl, State.csr_cmdErr_le, fun rs1 s => ?_, fun s t h hport he => ?_⟩
  · exact ⟨_, exec_csrw_refused s rs1 (by decide), s.raiseCmdErr_raisesOnly _⟩
  · rcases step_cases h with ⟨-, rfl⟩ | ⟨rest, hp, -⟩ | ⟨_, rest, _, -, -, hexec⟩ | ⟨_, rest, _, -, -, rfl⟩
    · rfl
    · simp [hp] at hport
    · exact (exec_cases hexec).cmdErr_of_recorded he
    · exact ((s.withPort rest).raiseCmdErr_cmdErr _).trans (if_neg he)

/-- Settles O48: CAPS shows the two parameters, which every step keeps. -/
theorem capsIsConstant : Obligations.CapsIsConstant := by
  refine ⟨State.csr_caps_toNat, fun s h => ?_, fun rs1 s => ?_, fun s t h => ?_⟩
  · simp only [State.csr, h]
    rfl
  · exact ⟨_, exec_csrw_refused s rs1 (by decide), s.raiseCmdErr_raisesOnly _⟩
  · exact State.csr_caps_congr (step_params h)

/-- Settles O49, by the effects of a command. -/
theorem onlyTheirWritersChangeLenAndThresholds : Obligations.OnlyTheirWritersChangeLenAndThresholds := by
  intro i s t h
  have e := exec_cases h
  exact ⟨e.writer_of_len, e.writer_of_minProm, e.writer_of_minGrad, e.writer_of_noiseFloor⟩

/-- Settles O50, by the effects of a command. -/
theorem onlyTheirWritersChangeTheResults : Obligations.OnlyTheirWritersChangeTheResults := by
  intro i s t h
  have e := exec_cases h
  exact ⟨e.writer_of_status, fun hne => e.writer_of_best fun hb => hne hb.1,
    fun hne => e.writer_of_best fun hb => hne hb.2, fun hne => e.writer_of_candidates fun hc => hne hc.1⟩

/-- Settles O51, by the effects of a command. -/
theorem onlyTheirWritersChangeTheBuffers : Obligations.OnlyTheirWritersChangeTheBuffers := by
  intro i s t h
  have e := exec_cases h
  exact ⟨fun _ => e.writer_of_rawAt, fun _ => e.writer_of_sigAt, fun _ => e.writer_of_candAt⟩

/-- Settles O52, by the effects of a command: one shape of effect writes a register, the destination. -/
theorem onlyTheDestinationRegisterChanges : Obligations.OnlyTheDestinationRegisterChanges :=
  fun _ _ _ _ h hne => (exec_cases h).writer_of_reg hne

/-- Settles O53, by running the command in both states (`exec_twin`). -/
theorem onlySourceRegistersAreRead : Obligations.OnlySourceRegistersAreRead :=
  fun _ _ _ _ v hr h => exec_setReg_of_not_source v hr h

/-- Settles O54: the growth by the effects of a command, the second part by running it in both states (`exec_twin`). -/
theorem outqOnlyGrowsAndIsNeverRead : Obligations.OutqOnlyGrowsAndIsNeverRead :=
  fun _ _ _ h => ⟨(exec_cases h).outq_eq_or_append, fun q => exec_outq_append q h⟩

/-- Settles O11, by evaluation of the reset state; the reset input leaves the same values from any state. -/
theorem resetGivesTheResetValues : Obligations.ResetGivesTheResetValues :=
  ⟨State.reset_holdsResetValues, fun s rest hp =>
    ⟨_, step_of_reset hp, (s.withPort rest).applyReset_holdsResetValues, State.csr_caps_congr rfl, rfl⟩⟩

/-- Settles O55: at reset nothing is written, no candidate is listed and no result is held. -/
theorem resetMeetsTheInvariants : Obligations.ResetMeetsTheInvariants :=
  ⟨State.reset_memoryInv, .of_empty rfl, State.reset_resultInv⟩

end Sys2Proof.Machine

/-! ## The memory (20_memory.md R60, R65, R67): every step keeps the cells canonical and inside their spaces, and takes its
input without looking at the later ones -/

namespace Sys2Proof.Machine

/-! ### One index space: canonical, with every listed cell below a bound -/

/-- The cells are in canonical form and every listed index is below `n`. -/
def Cells.Within {w : Nat} (m : Cells w) (n : Nat) : Prop :=
  m.rising = true ∧ ∀ i, (m.get? i).isSome = true → i < n

section Within

variable {w n : Nat}

theorem Cells.within_nil : Cells.Within ([] : Cells w) n := ⟨rfl, nofun⟩

theorem Cells.Within.set {m : Cells w} (h : m.Within n) {i : Nat} (hi : i < n) (v : BitVec w) : (m.set i v).Within n := by
  obtain ⟨hrising, hbound⟩ := h
  refine ⟨Cells.rising_set m i v hrising, fun j hj => ?_⟩
  rw [Cells.get?_set] at hj
  split at hj
  · omega
  · exact hbound j hj

/-- Converting `k` cells of a space that has as many keeps it canonical and inside its bound. -/
theorem Cells.Within.convert {m : Cells 32} (h : m.Within n) (R : Nat → Half) {k : Nat} (hk : k ≤ n) :
    (convertCells R k m).Within n := by
  induction k with
  | zero => exact h
  | succ k ih => exact (ih (by omega)).set hk _

/-- The scan writes below the candidate limit only: it stops when it has found that many. -/
theorem Cells.Within.detect {m : Cells 16} (h : m.Within n) (t : Thresholds) (S : Nat → Word) (L todo i : Nat)
    (prev : Word) {k : Nat} (hk : k ≤ n) : (detectLoop t S L n todo i prev k m).2.Within n := by
  induction todo generalizing i prev k m with
  | zero => exact h
  | succ todo ih =>
    simp only [detectLoop]
    split
    · exact h
    · have hroom : k < n := by omega
      split
      · exact ih (h.set hroom _) _ _ hroom
      · exact ih h _ _ hk

end Within

/-! ### The three index spaces -/

/-- The memory invariant, space by space. -/
theorem memoryInv_iff {s : State} :
    MemoryInv s ↔
      s.mem.raw.Within s.capacity ∧ s.mem.sig.Within s.capacity ∧ s.mem.cand.Within s.peakCapacity := by
  simp only [MemoryInv, Memory.wf_iff, Cells.Within]
  tauto

/-- The memory invariant speaks of the cells and the parameters only. -/
theorem MemoryInv.congr {s t : State} (hs : MemoryInv s) (hmem : t.mem = s.mem) (hparams : t.params = s.params) :
    MemoryInv t := by
  simpa only [MemoryInv, State.capacity, State.peakCapacity, hmem, hparams] using hs

section Updates

variable {s : State} (hs : MemoryInv s)
include hs

theorem MemoryInv.writeRaw {i : Nat} (hi : i < s.capacity) (v : Half) : MemoryInv (s.writeRaw i v) := by
  obtain ⟨hraw, hsig, hcand⟩ := memoryInv_iff.1 hs
  exact memoryInv_iff.2 ⟨hraw.set hi v, hsig, hcand⟩

theorem MemoryInv.writeSig {i : Nat} (hi : i < s.capacity) (v : Word) : MemoryInv (s.writeSig i v) := by
  obtain ⟨hraw, hsig, hcand⟩ := memoryInv_iff.1 hs
  exact memoryInv_iff.2 ⟨hraw, hsig.set hi v, hcand⟩

theorem MemoryInv.convert (hlen : s.length ≤ s.capacity) : MemoryInv s.convert := by
  obtain ⟨hraw, hsig, hcand⟩ := memoryInv_iff.1 hs
  exact memoryInv_iff.2 ⟨hraw, hsig.convert s.rawAt hlen, hcand⟩

theorem MemoryInv.detect : MemoryInv s.detect := by
  obtain ⟨hraw, hsig, hcand⟩ := memoryInv_iff.1 hs
  exact memoryInv_iff.2 ⟨hraw, hsig, hcand.detect _ _ _ _ _ _ (Nat.zero_le _)⟩

/-- `FIND`'s two stages that write cells. -/
theorem MemoryInv.found (hlen : s.length ≤ s.capacity) : MemoryInv s.found :=
  ((hs.convert hlen).congr (t := (s.setBest 0 0).convert.setCandCount 0) rfl rfl).detect

end Updates

/-! ### Every command, then every step -/

theorem Effect.keeps_memoryInv {i : Instr} {s t : State} (hs : MemoryInv s) (h : Effect i s t) : MemoryInv t := by
  cases h with
  | push imm _ hl => exact (hs.writeRaw hl imm).congr rfl rfl
  | raw _ _ v _ hl => exact hs.writeRaw hl v
  | sig _ _ v _ hl => exact hs.writeSig hl v
  | conv _ hl => exact (hs.convert hl).congr rfl rfl
  | detect => exact (hs.congr (t := s.setCandCount 0) rfl rfl).detect.congr rfl rfl
  | findShort _ hl => exact (hs.convert hl).congr rfl rfl
  | findNone _ _ hl => exact (hs.found hl).congr rfl rfl
  | find _ _ hl => exact (hs.found hl).congr (State.recordBest_mem ..) (State.recordBest_params ..)
  | _ => exact hs.congr (by simp) (by simp)

/-- The reset input forgets every cell. -/
theorem State.applyReset_memoryInv (s : State) : MemoryInv s.applyReset :=
  memoryInv_iff.2 ⟨Cells.within_nil, Cells.within_nil, Cells.within_nil⟩

theorem step_keeps_memoryInv {s t : State} (hs : MemoryInv s) (h : step s = .next t) : MemoryInv t :=
  step_preserves (fun _ hu => hu.congr rfl rfl) (fun _ hu => hu.congr (by simp) (by simp))
    (fun {u} _ => u.applyReset_memoryInv) Effect.keeps_memoryInv hs h

/-! ### One command with other inputs waiting -/

/-- Both runs answer a next state, the second's being the first's with `rest` waiting. -/
def EndsAlike (rest : List HostInput) (o o' : Host.Outcome State Fault Refusal) : Prop :=
  ∃ t, o = .next t ∧ o' = .next (t.withPort rest)

section LaterInputs

variable {rest : List HostInput}

theorem EndsAlike.next (t : State) : EndsAlike rest (.next t) (.next (t.withPort rest)) := ⟨t, rfl, rfl⟩

/-- Both runs take the same branch of a test that does not look at the port. -/
theorem EndsAlike.ite {c : Prop} [Decidable c] {o₁ o₁' o₂ o₂' : Host.Outcome State Fault Refusal}
    (h₁ : EndsAlike rest o₁ o₁') (h₂ : EndsAlike rest o₂ o₂') :
    EndsAlike rest (if c then o₁ else o₂) (if c then o₁' else o₂') := by
  split
  · exact h₁
  · exact h₂

theorem State.withPort_raiseCmdErr (s : State) (code : CmdErr) :
    (s.withPort rest).raiseCmdErr code = (s.raiseCmdErr code).withPort rest := by
  rw [State.raiseCmdErr_eq, State.raiseCmdErr_eq]
  rfl

theorem EndsAlike.error (s : State) (code : CmdErr) :
    EndsAlike rest (.next (s.raiseCmdErr code)) (.next ((s.withPort rest).raiseCmdErr code)) :=
  ⟨_, rfl, by rw [State.withPort_raiseCmdErr]⟩

/-- Selection with its outcome recorded, the last stage of `SELECT` and `FIND`. -/
theorem EndsAlike.selection (s : State) :
    EndsAlike rest (.next (s.recordBest (s.selectFirst s.count)))
      (.next ((s.withPort rest).recordBest ((s.withPort rest).selectFirst s.count))) := by
  have hselect : (s.withPort rest).selectFirst s.count = s.selectFirst s.count :=
    State.selectFirst_congr s _ _ rfl (fun _ _ => rfl) fun _ _ => rfl
  rw [hselect]
  unfold State.recordBest
  split
  · exact .next ((s.setBest _ _).setStatus .ok)
  · exact .next (s.setStatus .noPeak)

theorem exec_csrr_endsAlike (rd : Reg) (csr : Half) (s : State) :
    EndsAlike rest (exec (.csrr rd csr) s) (exec (.csrr rd csr) (s.withPort rest)) := by
  simp only [exec, execCsrr]
  cases Csr.ofNum csr with
  | some c =>
    have hcsr : (s.withPort rest).csr c = s.csr c := by cases c <;> rfl
    simp only [hcsr]
    exact .next (s.setReg rd (s.csr c))
  | none => exact .error s .badCsr

theorem exec_csrw_endsAlike (csr : Half) (rs1 : Reg) (s : State) :
    EndsAlike rest (exec (.csrw csr rs1) s) (exec (.csrw csr rs1) (s.withPort rest)) := by
  by_cases hn : 0x0003 < csr.toNat
  · rw [exec_csrw_refused _ _ hn, exec_csrw_refused _ _ hn]
    exact .error s .badCsr
  · rcases Csr.num_le_three (Nat.not_lt.1 hn) with rfl | rfl | rfl | rfl
    · exact .next (s.setLen (lowHalf (s.reg rs1)))
    · exact .next (s.setMinProm (s.reg rs1))
    · exact .next (s.setMinGrad (s.reg rs1))
    · exact .next (s.setNoiseFloor (s.reg rs1))

/-- A command has the same effect whatever inputs wait: both runs pass its tests alike, and each branch leaves the port. -/
theorem exec_endsAlike (i : Instr) (s : State) : EndsAlike rest (exec i s) (exec i (s.withPort rest)) := by
  cases i with
  | nop | tofix | setlo | fromfix | satadd | satsub | satmul | prom | cfgdef | out => exact .next _
  | push => exact .ite (.error s _) (.next _)
  | ldraw | ldsig | ldcand | grad | straw | stsig => exact .ite (.next _) (.error s _)
  | conv => exact .ite (.next _) (.next _)
  | detect => exact .ite (.next _) (.ite (.next _) (.next _))
  | select => exact .selection (s.setBest 0 0)
  | find => exact .ite (.next _) (.ite (.next _) (.ite (.next _) (.selection s.found)))
  | csrr rd csr => exact exec_csrr_endsAlike rd csr s
  | csrw csr rs1 => exact exec_csrw_endsAlike csr rs1 s

end LaterInputs

/-- A step that takes `x` does the same whatever waits after it. -/
theorem step_of_later_inputs {s t : State} {x : HostInput} {rest : List HostInput} (rest' : List HostInput)
    (h : step (s.withPort (x :: rest)) = .next t) : step (s.withPort (x :: rest')) = .next (t.withPort rest') := by
  cases x with
  | reset =>
    cases (step_of_reset rfl).symm.trans h
    exact step_of_reset rfl
  | command w =>
    cases hd : decode w with
    | ok i =>
      have hexec : exec i (s.withPort rest) = .next t := (step_of_decode_ok (s := s.withPort _) rfl hd).symm.trans h
      obtain ⟨u, hu, hu'⟩ := exec_endsAlike (rest := rest') i (s.withPort rest)
      cases hexec.symm.trans hu
      exact (step_of_decode_ok rfl hd).trans hu'
    | error e =>
      cases (step_of_decode_error rfl hd).symm.trans h
      refine (step_of_decode_error rfl hd).trans (congrArg Host.Outcome.next ?_)
      exact State.withPort_raiseCmdErr (s.withPort rest) (decodeCause e)

/-! ### The obligations -/

/-- Settles O56: every write a command makes is inside its space, because the command tests the index, the length or the
candidate limit first. -/
theorem stepKeepsTheMemoryCanonical : Obligations.StepKeepsTheMemoryCanonical :=
  fun _ _ => step_keeps_memoryInv

/-- Settles O9: the port is the one field the two runs differ in, and no command reads it. -/
theorem stepIgnoresLaterInputs : Obligations.StepIgnoresLaterInputs :=
  fun _ _ _ _ rest' => step_of_later_inputs rest'

end Sys2Proof.Machine

/-! ## The encoding (30_encoding.md): words and commands correspond one to one, the printed masks pick out the words of a
row, and every other word raises its command error -/

namespace Sys2Proof

/-! ### What `decode` answers: a command, or one of its two errors -/

theorem decode_encode (i : Instr) : decode (encode i) = .ok i := by
  have hfields : fieldsOf (encode i) = i.fields := fieldsOf_wordOf i.fields
  have hop : Opcode.ofBits i.fields.opcode = some i.opcode := by rw [i.fields_opcode, Opcode.ofBits_bits]
  rw [decode_of_fields hfields hop i.fields_unusedZero, Opcode.instr_fields]

/-- The decoder and the encoder are inverse to each other: a command has exactly one word. -/
theorem decode_eq_ok_iff {w : Word} {i : Instr} : decode w = .ok i ↔ encode i = w := by
  constructor
  · intro h
    rw [encode, decode_ok_fields h, wordOf_fieldsOf]
  · rintro rfl
    exact decode_encode i

/-- A word decodes to a command of row `o` when its opcode is the row's and the fields the row's format leaves unused are
zero. -/
theorem decode_opcode_iff {w : Word} {o : Opcode} :
    (∃ i, decode w = .ok i ∧ i.opcode = o) ↔
      (fieldsOf w).opcode = o.bits ∧ o.format.unusedZero (fieldsOf w) = true := by
  constructor
  · rintro ⟨i, hd, rfl⟩
    rw [← decode_ok_fields hd]
    exact ⟨i.fields_opcode, i.fields_unusedZero⟩
  · rintro ⟨hop, hzero⟩
    obtain ⟨-, hrow⟩ := o.fields_instr (fieldsOf w) hzero hop.symm
    exact ⟨_, decode_of_fields rfl (by rw [hop, Opcode.ofBits_bits]) hzero, hrow⟩

theorem decode_of_ofBits_eq_none {w : Word} (h : Opcode.ofBits (fieldsOf w).opcode = none) :
    decode w = .error .illegalOpcode := by
  simp only [decode, h]

theorem decode_of_not_unusedZero {w : Word} {o : Opcode} (hop : (fieldsOf w).opcode = o.bits)
    (h : ¬ o.format.unusedZero (fieldsOf w) = true) : decode w = .error .reservedField := by
  simp only [decode, hop, Opcode.ofBits_bits, if_neg h]

/-! ### The unassigned opcodes (R85) -/

/-- The opcode numbers of R85: 0x07, 0x0E, 0x0F, 0x16, 0x17 and 0x1C to 0x3F. -/
def UnassignedOpcode (n : Nat) : Prop :=
  n = 0x07 ∨ n = 0x0E ∨ n = 0x0F ∨ n = 0x16 ∨ n = 0x17 ∨ 0x1C ≤ n

theorem Opcode.bits_not_unassigned (o : Opcode) : ¬ UnassignedOpcode o.bits.toNat := by
  cases o <;> simp [UnassignedOpcode, Opcode.bits]

theorem Opcode.ofBits_eq_none {b : BitVec 6} (h : UnassignedOpcode b.toNat) : Opcode.ofBits b = none := by
  cases ho : Opcode.ofBits b with
  | none => rfl
  | some o => exact absurd (Opcode.bits_of_ofBits ho ▸ h) o.bits_not_unassigned

theorem fieldsOf_opcode_toNat (w : Word) : (fieldsOf w).opcode.toNat = w.toNat / 0x4000000 := by
  obtain ⟨hop, -⟩ := fieldsOf_toNat w
  have := w.isLt
  omega

theorem decode_of_unassigned {w : Word} (h : UnassignedOpcode (w.toNat / 0x4000000)) :
    decode w = .error .illegalOpcode :=
  decode_of_ofBits_eq_none (Opcode.ofBits_eq_none (by rwa [fieldsOf_opcode_toNat]))

/-! ### The printed match and mask columns (R81, R84) -/

/-- The bits a format requires to be zero (R81): bit 16 and the fields the format leaves unused. -/
def Format.zeroMask (fmt : Format) : Word :=
  maskBlock 16 1 |||
  match fmt with
  | .z => maskBlock 23 3 ||| maskBlock 20 3 ||| maskBlock 17 3 ||| maskBlock 0 16
  | .r3 => maskBlock 0 16
  | .r2 => maskBlock 17 3 ||| maskBlock 0 16
  | .i => maskBlock 20 3 ||| maskBlock 17 3
  | .s => maskBlock 23 3 ||| maskBlock 17 3
  | .p => maskBlock 23 3 ||| maskBlock 20 3 ||| maskBlock 17 3
  | .o => maskBlock 23 3 ||| maskBlock 17 3 ||| maskBlock 0 16

theorem and_or_eq_zero_iff (w M M' : Word) : w &&& (M ||| M') = 0 ↔ w &&& M = 0 ∧ w &&& M' = 0 := by
  rw [BitVec.and_or_distrib_left]
  exact BitVec.or_eq_zero_iff

/-- The bits of one field are zero when the field is. -/
theorem and_maskBlock_eq_zero_iff (w : Word) {s n : Nat} (h : s + n ≤ 32) :
    w &&& maskBlock s n = 0 ↔ w.extractLsb' s n = 0 := by
  simpa using and_maskBlock_iff w s n 0 h

/-- The must-be-zero bits are zero when the decoder's test of the unused fields passes. -/
theorem Format.and_zeroMask_iff (fmt : Format) (w : Word) :
    w &&& fmt.zeroMask = 0 ↔ fmt.unusedZero (fieldsOf w) = true := by
  cases fmt <;>
    simp only [Format.zeroMask, Format.unusedZero, fieldsOf, and_or_eq_zero_iff, and_maskBlock_eq_zero_iff,
      Bool.and_eq_true, beq_iff_eq, Nat.reduceAdd, Nat.reduceLeDiff]

/-- The printed columns of R84, taken apart: the match value is the opcode in its place, and the mask covers the opcode and
the must-be-zero bits of the row's format. -/
theorem Opcode.matchMask_eq (o : Opcode) :
    o.matchMask = (o.bits.setWidth 32 <<< 26, maskBlock 26 6 ||| o.format.zeroMask) := by
  cases o <;> rfl

/-- Under the mask of the opcode field, 0xFC000000, the match value of a row picks the words with its opcode. -/
theorem and_opcodeMask_iff (w : Word) (o : Opcode) :
    w &&& 0xFC000000 = o.matchMask.1 ↔ (fieldsOf w).opcode = o.bits := by
  rw [o.matchMask_eq]
  exact and_maskBlock_iff w 26 6 o.bits (by decide)

theorem and_matchMask_iff (w : Word) (o : Opcode) :
    w &&& o.matchMask.2 = o.matchMask.1 ↔
      (fieldsOf w).opcode = o.bits ∧ o.format.unusedZero (fieldsOf w) = true := by
  have hdisjoint : maskBlock 26 6 &&& o.format.zeroMask = 0 := by cases o.format <;> rfl
  have hinside : o.matchMask.1 &&& maskBlock 26 6 = o.matchMask.1 := by cases o <;> rfl
  have hmask : o.matchMask.2 = maskBlock 26 6 ||| o.format.zeroMask := by rw [o.matchMask_eq]
  calc w &&& o.matchMask.2 = o.matchMask.1
      ↔ w &&& (maskBlock 26 6 ||| o.format.zeroMask) = o.matchMask.1 ||| 0#32 := by rw [hmask, BitVec.or_zero]
    _ ↔ w &&& maskBlock 26 6 = o.matchMask.1 ∧ w &&& o.format.zeroMask = 0 :=
      and_or_eq_iff w _ _ _ 0 hdisjoint hinside BitVec.zero_and
    _ ↔ (fieldsOf w).opcode = o.bits ∧ o.format.unusedZero (fieldsOf w) = true :=
      and_congr (and_opcodeMask_iff w o) (o.format.and_zeroMask_iff w)

/-! ### The obligations about words -/

/-- Settles O1: the word of a command has the command's fields, and its unused fields are zero. -/
theorem decodeUndoesEncode : Obligations.DecodeUndoesEncode := decode_encode

/-- Settles O2: a decoded command has the fields of its word, and the fields are the whole word. -/
theorem encodeUndoesDecode : Obligations.EncodeUndoesDecode := fun _ _ => decode_eq_ok_iff.1

/-- Settles O3: the printed comparison and the decoder both ask for the row's opcode and for zero unused fields. -/
theorem decodeAcceptsExactlyTheTableRows : Obligations.DecodeAcceptsExactlyTheTableRows :=
  fun w o => (and_matchMask_iff w o).trans decode_opcode_iff.symm

/-- Settles O4: each of the ten words is the word of its command, and the two refused words fail a test each. -/
theorem decodesTheSpecsWords : Obligations.DecodesTheSpecsWords :=
  ⟨decode_encode .nop, decode_encode (.setlo .x2 0x1999), decode_encode (.fromfix .x4 .x3),
    decode_encode (.satadd .x3 .x1 .x2), decode_encode (.push 0xFFFB), decode_encode (.straw 4 .x1),
    decode_encode (.grad .x6 3), decode_encode .find, decode_encode (.csrw 1 .x1), decode_encode (.out .x1),
    decode_of_unassigned (by simp [UnassignedOpcode]), decode_of_not_unusedZero (o := .nop) rfl (by decide)⟩

end Sys2Proof

namespace Sys2Proof.Machine

/-! ### A word that is no command -/

/-- A step at a word that does not decode raises the command error of the decoder's answer, and does nothing else. -/
theorem step_raisesOnly_of_decode_error {s : State} {w : Word} {rest : List HostInput} {e : DecodeError}
    (hp : s.port = .command w :: rest) (hd : decode w = .error e) :
    ∃ t, step s = .next t ∧ RaisesOnly (decodeCause e) (s.withPort rest) t :=
  ⟨_, step_of_decode_error hp hd, State.raiseCmdErr_raisesOnly _ _⟩

/-- Settles O6: no row has an opcode of R85's list. -/
theorem unassignedOpcodeRaisesIllegalOpcode : Obligations.UnassignedOpcodeRaisesIllegalOpcode :=
  fun _ _ _ hp hop => step_raisesOnly_of_decode_error hp (decode_of_unassigned hop)

/-- Settles O7: a word with the row's opcode that fails the row's printed comparison fails the test of the unused fields. -/
theorem reservedBitRaisesReservedField : Obligations.ReservedBitRaisesReservedField := by
  intro s w rest o hp hmatch hmask
  have hop : (fieldsOf w).opcode = o.bits := (and_opcodeMask_iff w o).1 hmatch
  have hzero : ¬ o.format.unusedZero (fieldsOf w) = true :=
    fun hzero => hmask ((and_matchMask_iff w o).2 ⟨hop, hzero⟩)
  exact step_raisesOnly_of_decode_error hp (decode_of_not_unusedZero hop hzero)

/-! ### Building a word from its halves (R91) -/

theorem joinHalves_highHalf_lowHalf (v : Word) : joinHalves (highHalf v) (lowHalf v) = v := by
  apply BitVec.eq_of_toNat_eq
  rw [joinHalves_toNat, highHalf_toNat, lowHalf_toNat]
  omega

theorem highHalf_joinHalves (hi lo : Half) : highHalf (joinHalves hi lo) = hi := by
  apply BitVec.eq_of_toNat_eq
  rw [highHalf_toNat, joinHalves_toNat]
  omega

/-- Scaling a sample by 2^16 puts it in the high half. -/
theorem tofix_eq_joinHalves (v : Half) : tofix v = joinHalves v 0 := by
  apply BitVec.eq_of_toNat_eq
  have hzero : (0 : Half).toNat = 0 := rfl
  have hlt := v.isLt
  rw [joinHalves_toNat, hzero, tofix, BitVec.toNat_ofInt, BitVec.toInt_eq_toNat_cond]
  split <;> omega

theorem exec_tofix (rd : Reg) (imm : Half) (s : State) :
    exec (.tofix rd imm) s = .next (s.setReg rd (joinHalves imm 0)) := by
  rw [← tofix_eq_joinHalves]
  rfl

theorem exec_setlo (rd : Reg) (imm : Half) (s : State) :
    exec (.setlo rd imm) s = .next (s.setReg rd (joinHalves (highHalf (s.reg rd)) imm)) := rfl

/-- `SETLO` keeps the high half that `TOFIX` has put in place. -/
theorem exec_setlo_after_tofix (rd : Reg) (hi lo : Half) (s : State) :
    exec (.setlo rd lo) (s.setReg rd (joinHalves hi 0)) = .next (s.setReg rd (joinHalves hi lo)) := by
  rw [exec_setlo, State.setReg_reg, if_pos rfl, highHalf_joinHalves, State.setReg_setReg_self]

/-- Settles O18: `TOFIX` leaves the high half over a zero low half, and `SETLO` then the low half in its place. -/
theorem tofixThenSetloBuildsAnyWord : Obligations.TofixThenSetloBuildsAnyWord := by
  intro rd v s
  have hjoin : joinHalves (v.extractLsb' 16 16) (v.extractLsb' 0 16) = v := joinHalves_highHalf_lowHalf v
  refine ⟨_, _, exec_tofix rd _ s, exec_setlo_after_tofix rd _ _ s, ?_, fun hlow => ?_, s.setReg_unchanged rd _⟩
  · rw [State.setReg_reg, if_pos rfl, hjoin]
  · rw [State.setReg_reg, if_pos rfl, ← hlow, hjoin]

end Sys2Proof.Machine

/-! ## Conversion and saturating arithmetic (40_conversion_saturating_arith.md): the one word of each command, and the exact
result, narrowed once, in its `rd` -/

namespace Sys2Proof.Machine

/-! ### The one word of a command -/

/-- No field of a command word reaches into the next, so the sum of R80 does not wrap. -/
theorem encode_toNat (i : Instr) :
    (encode i).toNat = i.fields.opcode.toNat * 0x4000000 + i.fields.rd.toNat * 0x800000 + i.fields.rs1.toNat * 0x100000
      + i.fields.rs2.toNat * 0x20000 + i.fields.z.toNat * 0x10000 + i.fields.imm16.toNat := by
  have hop := i.fields.opcode.isLt
  have hrd := i.fields.rd.isLt
  have hrs1 := i.fields.rs1.isLt
  have hrs2 := i.fields.rs2.isLt
  have hz := i.fields.z.isLt
  have himm := i.fields.imm16.isLt
  rw [encode, wordOf_toNat]
  omega

theorem onlyWord_of_encode_toNat {i : Instr} {n : Nat} (h : (encode i).toNat = n) : OnlyWord i n := by
  intro w
  rw [decode_eq_ok_iff, ← h, BitVec.toNat_inj, eq_comm]

/-! ### Commands that write one register -/

theorem State.setReg_reg_self (s : State) (r : Reg) (v : Word) : (s.setReg r v).reg r = v :=
  Regs.get_set_self s.regs r v

/-- A command that answers with `v` written to `rd` completes, has in `rd` whatever is known of `v`, and leaves the rest. -/
theorem exec_result_of_setReg {α : Type} {f : Word → α} {i : Instr} {s : State} {rd : Reg} {v : Word} {x : α}
    (h : exec i s = .next (s.setReg rd v)) (hv : f v = x) :
    ∃ t, exec i s = .next t ∧ f (t.reg rd) = x ∧ Unchanged { regs := [rd] } s t :=
  ⟨_, h, by rw [State.setReg_reg_self, hv], s.setReg_unchanged rd v⟩

theorem exec_fromfix (rd rs1 : Reg) (s : State) :
    exec (.fromfix rd rs1) s = .next (s.setReg rd (sext32 (fromfix (s.reg rs1)))) := rfl

theorem exec_satadd (rd rs1 rs2 : Reg) (s : State) :
    exec (.satadd rd rs1 rs2) s = .next (s.setReg rd (sat32 ((s.reg rs1).toInt + (s.reg rs2).toInt))) := rfl

theorem exec_satsub (rd rs1 rs2 : Reg) (s : State) :
    exec (.satsub rd rs1 rs2) s = .next (s.setReg rd (sat32 ((s.reg rs1).toInt - (s.reg rs2).toInt))) := rfl

theorem exec_satmul (rd rs1 rs2 : Reg) (s : State) :
    exec (.satmul rd rs1 rs2) s = .next (s.setReg rd (sat32 ((s.reg rs1).toInt * (s.reg rs2).toInt / 65536))) := by
  rw [← asr_sixteen]
  rfl

/-! ### Values -/

/-- A sample scaled by 2^16 lies on a whole number, so nothing is rounded, and in the 16-bit range, so nothing is clamped. -/
theorem fromfix_tofix (v : Half) : fromfix (tofix v) = v := by
  have hrange := half_toInt_bounds v
  apply BitVec.eq_of_toInt_eq
  rw [fromfix_toInt, tofix_toInt]
  omega

theorem joinHalves_highHalf_toNat (a : Word) (lo : Half) :
    (joinHalves (highHalf a) lo).toNat = a.toNat / 65536 * 65536 + lo.toNat := by
  rw [joinHalves_toNat, highHalf_toNat]

/-- The model's narrowing is the statements' clamp. -/
theorem sat32_toInt_eq_clamp32 (n : Int) : (sat32 n).toInt = clamp32 n := sat32_toInt n

/-! ### The obligations -/

/-- Settles O14: the high half of `rd` takes the sample over a zero low half, which is 65536 times its signed value. -/
theorem tofixScalesTheSample : Obligations.TofixScalesTheSample := by
  intro rd imm
  have hvalue : (joinHalves imm 0).toInt = 65536 * imm.toInt := by
    rw [← tofix_eq_joinHalves, tofix_toInt, mul_comm]
  exact ⟨onlyWord_of_encode_toNat (by simp [encode_toNat, Instr.fields, Opcode.bits]),
    fun s => exec_result_of_setReg (exec_tofix rd imm s) hvalue⟩

/-- Settles O15: joining the old high half with `imm16` keeps the bits from 2^16 up. -/
theorem setloReplacesTheFraction : Obligations.SetloReplacesTheFraction :=
  fun rd imm => ⟨onlyWord_of_encode_toNat (by simp [encode_toNat, Instr.fields, Opcode.bits]),
    fun s => exec_result_of_setReg (exec_setlo rd imm s) (joinHalves_highHalf_toNat (s.reg rd) imm)⟩

/-- Settles O16: sign extension keeps the value of the clamped 16-bit result. -/
theorem fromfixRoundsHalfUpAndSaturates : Obligations.FromfixRoundsHalfUpAndSaturates :=
  fun rd rs1 => ⟨onlyWord_of_encode_toNat (by simp [encode_toNat, Instr.fields, Opcode.bits]),
    fun s => exec_result_of_setReg (exec_fromfix rd rs1 s) ((sext32_toInt _).trans (fromfix_toInt (s.reg rs1)))⟩

/-- Settles O17: `FROMFIX` reads the scaled sample back from `rd`, and the scaled sample loses nothing. -/
theorem fromfixUndoesTofix : Obligations.FromfixUndoesTofix := by
  intro rd rd' v s
  refine ⟨_, _, exec_tofix rd v s, exec_fromfix rd' rd _, ?_⟩
  rw [State.setReg_reg_self, State.setReg_reg_self, ← tofix_eq_joinHalves, fromfix_tofix, sext32_toInt]

/-- Settles O19: the sum is formed in the integers and narrowed once, by `sat32`. -/
theorem sataddClampsTheExactSum : Obligations.SataddClampsTheExactSum :=
  fun rd rs1 rs2 => ⟨onlyWord_of_encode_toNat (by simp [encode_toNat, Instr.fields, Opcode.bits]),
    fun s => exec_result_of_setReg (exec_satadd rd rs1 rs2 s) (sat32_toInt_eq_clamp32 _)⟩

/-- Settles O20: the difference is formed in the integers and narrowed once, by `sat32`. -/
theorem satsubClampsTheExactDifference : Obligations.SatsubClampsTheExactDifference :=
  fun rd rs1 rs2 => ⟨onlyWord_of_encode_toNat (by simp [encode_toNat, Instr.fields, Opcode.bits]),
    fun s => exec_result_of_setReg (exec_satsub rd rs1 rs2 s) (sat32_toInt_eq_clamp32 _)⟩

/-- Settles O21: the product is formed in the integers, floored by the shift by 16, and narrowed once, by `sat32`. -/
theorem satmulClampsTheFlooredProduct : Obligations.SatmulClampsTheFlooredProduct :=
  fun rd rs1 rs2 => ⟨onlyWord_of_encode_toNat (by simp [encode_toNat, Instr.fields, Opcode.bits]),
    fun s => exec_result_of_setReg (exec_satmul rd rs1 rs2 s) (sat32_toInt_eq_clamp32 _)⟩

end Sys2Proof.Machine

/-! ## Gradient, conversion of the buffer and detection (41_gradient_detection.md): each command path by path with its frame,
and the candidate list as the accepted indices cut off at MAX_PEAKS, from which the properties of R126 follow -/

namespace Sys2Proof.Machine

/-! ### Updates inside a frame -/

section Frames

variable {w : Touches} {s t : State}

theorem Unchanged.setStatus (h : Unchanged w s t) (hw : Csr.status ∈ w.csrs) (c : Status) :
    Unchanged w s (t.setStatus c) := by
  refine h.trans ⟨fun _ _ => rfl, fun csr hcsr => ?_, fun _ _ => rfl, fun _ _ => rfl, fun _ _ => rfl, fun _ => rfl,
    rfl, rfl, rfl⟩
  cases csr with
  | status => exact absurd hw hcsr
  | _ => rfl

theorem Unchanged.setCandCount (h : Unchanged w s t) (hw : Csr.candCount ∈ w.csrs) (n : Nat) :
    Unchanged w s (t.setCandCount n) := by
  refine h.trans ⟨fun _ _ => rfl, fun csr hcsr => ?_, fun _ _ => rfl, fun _ _ => rfl, fun _ _ => rfl, fun _ => rfl,
    rfl, rfl, rfl⟩
  cases csr with
  | candCount => exact absurd hw hcsr
  | _ => rfl

/-- Conversion writes the `SIG` cells of the signal and nothing else (R122). -/
theorem Unchanged.convert (h : Unchanged w s t) (hw : ∀ i, i < t.length → w.sig i) : Unchanged w s t.convert := by
  refine h.trans ⟨fun _ _ => rfl, fun csr _ => ?_, fun _ _ => rfl, fun i hi => ?_, fun _ _ => rfl, fun _ => rfl,
    rfl, rfl, rfl⟩
  · cases csr <;> rfl
  · rw [State.convert_sigAt, if_neg fun hlt => hi (hw i hlt)]

/-- Detection writes CAND_COUNT and the `CAND` cells below it, and nothing else (R124). -/
theorem Unchanged.detect (h : Unchanged w s t) (hcount : Csr.candCount ∈ w.csrs)
    (hcand : ∀ k, k < t.detect.count → w.cand k) : Unchanged w s t.detect := by
  refine h.trans ⟨fun _ _ => rfl, fun csr hcsr => ?_, fun _ _ => rfl, fun _ _ => rfl, fun k hk => ?_, fun _ => rfl,
    rfl, rfl, rfl⟩
  · cases csr with
    | candCount => exact absurd hcount hcsr
    | _ => rfl
  · exact t.detect_candAt_beyond k fun hlt => hk (hcand k hlt)

end Frames

/-! ### The commands, path by path -/

theorem exec_grad (rd : Reg) {idx : Half} {s : State} (h2 : 2 ≤ s.length) (hl : s.length ≤ s.capacity)
    (hidx : idx.toNat < s.length) :
    exec (.grad rd idx) s = .next (s.setReg rd (gradient s.sigAt s.length idx.toNat)) :=
  if_pos ((s.gradIndexOk_iff idx).2 ⟨h2, hl, hidx⟩)

theorem exec_grad_bad_index (rd : Reg) {idx : Half} {s : State}
    (h : s.length < 2 ∨ s.capacity < s.length ∨ s.length ≤ idx.toNat) :
    exec (.grad rd idx) s = .next (s.raiseCmdErr .badIndex) :=
  if_neg (by rw [State.gradIndexOk_iff]; omega)

theorem exec_conv_invalid {s : State} (h : s.length = 0 ∨ s.capacity < s.length) :
    exec .conv s = .next (s.setStatus .invalidInput) :=
  if_pos (s.lengthInvalid_iff.2 h)

theorem exec_detect_too_large {s : State} (h : s.capacity < s.length) :
    exec .detect s = .next ((s.setCandCount 0).setStatus .invalidInput) :=
  if_pos ((s.setCandCount 0).lengthTooLarge_iff.2 h)

theorem exec_detect_too_small {s : State} (hl : s.length ≤ s.capacity) (h : s.length < 3) :
    exec .detect s = .next ((s.setCandCount 0).setStatus .bufferTooSmall) := by
  simp only [exec, execDetect]
  rw [if_neg (by rw [State.lengthTooLarge_iff]; simp; omega), if_pos (by rw [State.lengthTooSmall_iff]; simpa using h)]

/-! ### The accepted indices and the list `DETECT` leaves of them -/

theorem State.accepted_isCandidateList (s : State) :
    IsCandidateList s.noiseFloor.toInt s.minGrad.toInt s.sample s.length s.accepted :=
  ⟨acceptedFrom_pairwise .., s.mem_accepted⟩

/-- The tests of R123 compare from above with either threshold, so lower thresholds pass whatever higher ones do. -/
theorem IsCandidate.of_thresholds_le {nf nf' mg mg' : Int} {S : Nat → Int} {L i : Nat} (hnf : nf ≤ nf') (hmg : mg ≤ mg')
    (h : IsCandidate nf' mg' S L i) : IsCandidate nf mg S L i := by
  obtain ⟨hshape, hfloor, hgrad⟩ := h
  exact ⟨hshape, hnf.trans_lt hfloor, hmg.trans hgrad⟩

/-- The accepted indices depend only on the signal, its length and the two thresholds. -/
theorem State.accepted_congr {s s' : State} (hlen : s.len = s'.len) (hmg : s.minGrad = s'.minGrad)
    (hnf : s.noiseFloor = s'.noiseFloor) (hsig : ∀ i, i < s.length → s.sigAt i = s'.sigAt i) (h3 : 3 ≤ s.length) :
    s.accepted = s'.accepted := by
  have hL : s.length = s'.length := congrArg BitVec.toNat hlen
  have ht : s.thresholds = s'.thresholds := by simp only [State.thresholds, hmg, hnf]
  rw [State.accepted, State.accepted, ← hL, ← ht]
  exact acceptedFrom_congr (by omega) (by omega) hsig

/-- `DETECT` on a signal of an admissible length lists the first MAX_PEAKS of the accepted indices (R124). -/
theorem exec_detect_lists_accepted {s t : State} (h : exec .detect s = .next t) (h3 : 3 ≤ s.length)
    (hl : s.length ≤ s.capacity) :
    t.count = min s.accepted.length s.peakCapacity ∧
      ∀ k, k < t.count → s.accepted[k]? = some (t.candAt k).toNat := by
  rw [exec_detect s h3 hl] at h
  cases h
  exact ⟨(s.setCandCount 0).detect_count, (s.setCandCount 0).detect_candAt⟩

/-- A position of a list has one entry, which determines the half that holds it. -/
theorem half_eq_of_getElem? {cs : List Nat} {k : Nat} {a b : Half} (h : cs[k]? = some a.toNat)
    (h' : cs[k]? = some b.toNat) : a = b :=
  BitVec.eq_of_toNat_eq (Option.some.inj (h.symm.trans h'))

/-! ### The obligations -/

/-- Settles O28: the words of the gradient function have the integer values of R120. -/
theorem gradIsTheFiniteDifference : Obligations.GradIsTheFiniteDifference :=
  fun rd idx => ⟨onlyWord_of_encode_toNat (by simp [encode_toNat, Instr.fields, Opcode.bits]), fun s =>
    ⟨fun h2 hl hidx => exec_result_of_setReg (exec_grad rd h2 hl hidx) (gradient_toInt s.sigAt s.length idx.toNat),
      fun h => ⟨_, exec_grad_bad_index rd h, s.raiseCmdErr_raisesOnly .badIndex⟩⟩⟩

/-- Settles O29: after conversion each `SIG` cell of the signal reads as its scaled sample. -/
theorem convConvertsTheWholeBuffer : Obligations.ConvConvertsTheWholeBuffer := by
  refine ⟨onlyWord_of_encode_toNat (by decide), fun s => ⟨fun h => ?_, fun h0 hl => ?_⟩⟩
  · exact ⟨_, exec_conv_invalid h, rfl, (Unchanged.refl _ s).setStatus (by simp) _⟩
  · refine ⟨_, exec_conv s h0 hl, rfl, fun i hi => ?_, ((Unchanged.refl _ s).convert fun _ hi => hi).setStatus (by simp) _⟩
    rw [State.sample, State.setStatus_sigAt, State.convert_sigAt, if_pos hi, tofix_toInt, mul_comm]

/-- Settles O30: the list is that of the accepted indices, which the scan takes in order until MAX_PEAKS are found. -/
theorem detectListsTheFirstAcceptedIndices : Obligations.DetectListsTheFirstAcceptedIndices := by
  refine ⟨onlyWord_of_encode_toNat (by decide), fun s => ⟨fun h => ?_, fun hl h3 => ?_, fun h3 hl => ?_⟩⟩
  · exact ⟨_, exec_detect_too_large h, rfl, rfl,
      ((Unchanged.refl _ s).setCandCount (by simp) 0).setStatus (by simp) _⟩
  · exact ⟨_, exec_detect_too_small hl h3, rfl, rfl,
      ((Unchanged.refl _ s).setCandCount (by simp) 0).setStatus (by simp) _⟩
  · obtain ⟨hcount, hcand⟩ := exec_detect_lists_accepted (exec_detect s h3 hl) h3 hl
    exact ⟨_, s.accepted, exec_detect s h3 hl, rfl, s.accepted_isCandidateList, hcount, hcand,
      (((Unchanged.refl _ s).setCandCount (by simp) 0).detect (by simp) fun _ hk => hk).setStatus (by simp) _⟩

/-- Settles O31: both lists are cut from the same accepted indices, the first no later than the second. -/
theorem morePeaksOnlyExtendTheCandidateList : Obligations.MorePeaksOnlyExtendTheCandidateList := by
  intro s t t' n hn h3 hl h h'
  obtain ⟨hcount, hcand⟩ := exec_detect_lists_accepted h h3 hl
  obtain ⟨hcount', hcand'⟩ := exec_detect_lists_accepted h' h3 hl
  have hle : t.count ≤ t'.count := by
    rw [hcount, hcount']
    exact min_le_min_left _ hn
  exact ⟨hle, fun k hk => half_eq_of_getElem? (hcand k hk) (hcand' k (hk.trans_le hle))⟩

/-- Settles O32: an index accepted under the higher thresholds is accepted under the lower ones, and the list under these
was not cut off, so the index has a place in it. -/
theorem higherThresholdsOnlyRemoveCandidates : Obligations.HigherThresholdsOnlyRemoveCandidates := by
  intro s t t' nf mg hnf hmg h3 hl h hfew h' k hk
  obtain ⟨hcount, hcand⟩ := exec_detect_lists_accepted h h3 hl
  obtain ⟨-, hcand'⟩ := exec_detect_lists_accepted h' h3 hl
  obtain ⟨hfirst, hlast, hpasses⟩ := (State.mem_accepted _ _).1 (List.mem_of_getElem? (hcand' k hk))
  have hmem : (t'.candAt k).toNat ∈ s.accepted :=
    (s.mem_accepted _).2 ⟨hfirst, hlast, hpasses.of_thresholds_le hnf hmg⟩
  obtain ⟨j, hj, hval⟩ := List.getElem_of_mem hmem
  have hjt : j < t.count := by omega
  have hlisted : s.accepted[j]? = some (t'.candAt k).toNat := List.getElem?_eq_some_iff.2 ⟨hj, hval⟩
  exact ⟨j, hjt, half_eq_of_getElem? hlisted (hcand j hjt)⟩

/-- Settles O33: the two states take the same path; the failing paths leave no candidate, and on the third both states have
the same accepted indices and cut them off at the same place. -/
theorem detectDependsOnlyOnTheSignalAndThresholds : Obligations.DetectDependsOnlyOnTheSignalAndThresholds := by
  intro s s' t t' hlen hparams hmg hnf hsig h h'
  have hL : s'.length = s.length := congrArg BitVec.toNat hlen.symm
  have hcap : s'.capacity = s.capacity := congrArg (fun p => p.maxSignalLength.toNat) hparams.symm
  have hpeaks : s'.peakCapacity = s.peakCapacity := congrArg (fun p => p.maxPeaks.toNat) hparams.symm
  by_cases hl : s.capacity < s.length
  · cases (exec_detect_too_large hl).symm.trans h
    cases (exec_detect_too_large (by omega)).symm.trans h'
    exact ⟨rfl, rfl, nofun⟩
  by_cases h3 : s.length < 3
  · cases (exec_detect_too_small (by omega) h3).symm.trans h
    cases (exec_detect_too_small (by omega) (by omega)).symm.trans h'
    exact ⟨rfl, rfl, nofun⟩
  obtain ⟨hcount, hcand⟩ := exec_detect_lists_accepted h (by omega) (by omega)
  obtain ⟨hcount', hcand'⟩ := exec_detect_lists_accepted h' (by omega) (by omega)
  rw [← State.accepted_congr hlen hmg hnf hsig (by omega)] at hcount' hcand'
  have hsame : t.count = t'.count := by rw [hcount, hcount', hpeaks]
  refine ⟨?_, BitVec.eq_of_toNat_eq hsame, fun k hk => half_eq_of_getElem? (hcand k hk) (hcand' k (hsame ▸ hk))⟩
  cases (exec_detect s (by omega) (by omega)).symm.trans h
  cases (exec_detect s' (by omega) (by omega)).symm.trans h'
  rfl

end Sys2Proof.Machine

/-! ## Prominence, selection and the find operation (42_prominence_selection.md): when a prominence is zero, what selection
leaves of a candidate list, and `FIND` as selection from the state that conversion and detection leave -/

namespace Sys2Proof.Machine

/-! ### When a prominence is zero (R141 (a)) -/

/-- A left side is the peak alone exactly when the sample before the peak is not below it; before index 0 stands index 0
itself, by truncated subtraction. -/
theorem IsLeftSide.start_eq_iff {S : Nat → Int} {p a : Nat} (h : IsLeftSide S p a) : a = p ↔ S p ≤ S (p - 1) := by
  obtain ⟨hle, hbelow, hstop⟩ := h
  constructor
  · rintro rfl
    rcases hstop with rfl | hstop
    · exact le_refl _
    · exact hstop
  · intro hnext
    by_contra hne
    exact absurd (hbelow (p - 1) (by omega) (by omega)) (not_lt.2 hnext)

/-- A right side is the peak alone exactly at the signal's end or when the sample after the peak is not below it. -/
theorem IsRightSide.last_eq_iff {S : Nat → Int} {L p b : Nat} (h : IsRightSide S L p b) :
    b = p ↔ p + 1 = L ∨ S p ≤ S (p + 1) := by
  obtain ⟨hle, hlt, hbelow, hstop⟩ := h
  constructor
  · rintro rfl
    exact hstop
  · rintro (hend | hnext)
    · omega
    · by_contra hne
      exact absurd (hbelow (p + 1) (by omega) (by omega)) (not_lt.2 hnext)

/-- A side's minimum is the peak exactly when the side is the peak alone: every other sample of a side is below the peak. -/
theorem IsLeftSide.peak_le_minimum_iff {S : Nat → Int} {p a : Nat} {m : Int} (h : IsLeftSide S p a)
    (hm : IsMinimum S a p m) : S p ≤ m ↔ a = p := by
  obtain ⟨hle, hbelow, -⟩ := h
  obtain ⟨⟨j, hja, hjp, rfl⟩, hmin⟩ := hm
  constructor
  · intro hpeak
    by_contra hne
    have hstart := hbelow a (le_refl a) (by omega)
    have hleast := hmin a (le_refl a) hle
    omega
  · rintro rfl
    rw [le_antisymm hja hjp]

theorem IsRightSide.peak_le_minimum_iff {S : Nat → Int} {L p b : Nat} {m : Int} (h : IsRightSide S L p b)
    (hm : IsMinimum S p b m) : S p ≤ m ↔ b = p := by
  obtain ⟨hle, -, hbelow, -⟩ := h
  obtain ⟨⟨j, hjp, hjb, rfl⟩, hmin⟩ := hm
  constructor
  · intro hpeak
    by_contra hne
    have hlast := hbelow b (by omega) (le_refl b)
    have hleast := hmin b hle (le_refl b)
    omega
  · rintro rfl
    rw [le_antisymm hjp hjb]

/-- A prominence is zero exactly when one of the two sides is the peak alone. -/
theorem IsProminence.eq_zero_iff {S : Nat → Int} {L p : Nat} {v : Int} (h : IsProminence S L p v) :
    v = 0 ↔ p + 1 = L ∨ S p ≤ S (p - 1) ∨ S p ≤ S (p + 1) := by
  obtain ⟨a, b, lmin, rmin, hleft, hright, hlmin, hrmin, rfl⟩ := h
  have hl : S p ≤ lmin ↔ S p ≤ S (p - 1) := (hleft.peak_le_minimum_iff hlmin).trans hleft.start_eq_iff
  have hr : S p ≤ rmin ↔ p + 1 = L ∨ S p ≤ S (p + 1) := (hright.peak_le_minimum_iff hrmin).trans hright.last_eq_iff
  have hlpeak : lmin ≤ S p := hlmin.2 p hleft.1 (le_refl p)
  have hrpeak : rmin ≤ S p := hrmin.2 p (le_refl p) hright.1
  have hzero : clamp32 (S p - max lmin rmin) = 0 ↔ S p ≤ lmin ∨ S p ≤ rmin := by
    unfold clamp32
    omega
  rw [hzero, hl, hr, or_left_comm]

theorem exec_prom (rd : Reg) (idx : Half) (s : State) :
    exec (.prom rd idx) s = .next (s.setReg rd (s.promOrZero idx.toNat)) := rfl

theorem word_eq_zero_iff_toInt (v : Word) : v = 0 ↔ v.toInt = 0 :=
  ⟨fun h => by rw [h]; rfl, fun h => BitVec.eq_of_toInt_eq h⟩

/-- Settles O34: outside the signal the guarded prominence is 0, inside it is the prominence of R140. -/
theorem promIsThePeakMinusTheHigherSideMinimum : Obligations.PromIsThePeakMinusTheHigherSideMinimum := by
  refine fun rd idx => ⟨onlyWord_of_encode_toNat (by simp [encode_toNat, Instr.fields, Opcode.bits]), fun s =>
    ⟨fun h => ?_, fun hl hidx => ⟨_, exec_prom rd idx s, ?_, s.setReg_unchanged rd _⟩⟩⟩
  · exact exec_result_of_setReg (f := id) (exec_prom rd idx s) (s.promOrZero_outside idx.toNat h)
  · rw [State.setReg_reg_self]
    exact s.promOrZero_isProminence idx.toNat hl hidx

/-- Settles O35: index 0 is the case of a left neighbour that is the peak itself. -/
theorem prominenceIsZeroExactlyBesideNoLowerSample : Obligations.ProminenceIsZeroExactlyBesideNoLowerSample := by
  intro rd idx s hl hidx
  have hprom := s.promOrZero_isProminence idx.toNat hl hidx
  have hfirst : idx.toNat = 0 → s.sample idx.toNat ≤ s.sample (idx.toNat - 1) := fun h0 => by rw [h0]
  refine ⟨_, exec_prom rd idx s, ?_, ?_⟩
  · rw [State.setReg_reg_self]
    exact hprom.nonneg
  · rw [State.setReg_reg_self, word_eq_zero_iff_toInt, hprom.eq_zero_iff]
    tauto

/-! ### What selection leaves (R143 to R145) -/

/-- Selection and its record, as `SELECT` and `FIND` make them once the results are cleared (R144, R146). -/
def State.selection (s : State) : State := s.recordBest (s.selectFirst s.count)

theorem exec_select_selection (s : State) : exec .select s = .next (s.setBest 0 0).selection := rfl

theorem exec_find_selection (s : State) (h3 : 3 ≤ s.length) (hl : s.length ≤ s.capacity) :
    exec .find s = .next s.found.selection := exec_find s h3 hl

/-- No candidate reaches MIN_PROM. -/
def State.NoneProminent (s : State) : Prop := ∀ k, k < s.count → (s.candProm k).toInt < s.minProm.toInt

/-- Candidate `k` reaches MIN_PROM and is the earliest of those of greatest prominence (R145). -/
def State.Selects (s : State) (k : Nat) : Prop :=
  k < s.count ∧ s.minProm.toInt ≤ (s.candProm k).toInt ∧
  (∀ j, j < s.count → (s.candProm j).toInt ≤ (s.candProm k).toInt) ∧
  ∀ j, j < k → (s.candProm j).toInt < (s.candProm k).toInt

theorem State.Selects.unique {s : State} {k k' : Nat} (h : s.Selects k) (h' : s.Selects k') : k = k' := by
  obtain ⟨hk, -, hmax, hfirst⟩ := h
  obtain ⟨hk', -, hmax', hfirst'⟩ := h'
  rcases Nat.lt_trichotomy k k' with hlt | heq | hgt
  · exact absurd (hmax k' hk') (not_le.2 (hfirst' k hlt))
  · exact heq
  · exact absurd (hmax' k hk) (not_le.2 (hfirst k' hgt))

theorem State.Selects.not_noneProminent {s : State} {k : Nat} (h : s.Selects k) : ¬ s.NoneProminent := by
  obtain ⟨hk, hreach, -, -⟩ := h
  exact fun hnone => absurd (hnone k hk) (not_lt.2 hreach)

/-- A lower threshold selects the same candidate (R145). -/
theorem State.Selects.setMinProm {s : State} {k : Nat} {v : Word} (hv : v.toInt ≤ s.minProm.toInt) (h : s.Selects k) :
    (s.setMinProm v).Selects k := by
  obtain ⟨hk, hreach, hmax, hfirst⟩ := h
  exact ⟨hk, hv.trans hreach, hmax, hfirst⟩

/-- The one inversion lemma of selection: NO_PEAK, or the record of the candidate it selects. -/
theorem State.selection_cases (s : State) :
    (s.NoneProminent ∧ s.selection = s.setStatus .noPeak) ∨
    ∃ k, s.Selects k ∧ s.selection = (s.setBest (s.candAt k) (s.candProm k)).setStatus .ok := by
  rcases s.selectFirst_spec s.count with ⟨hfound, hnone⟩ | ⟨hfound, k, hk, hreach, hprom, hidx, hmax, hfirst⟩
  · exact .inl ⟨hnone, s.recordBest_not_found _ hfound⟩
  · refine .inr ⟨k, ⟨hk, hreach, hmax, hfirst⟩, ?_⟩
    rw [State.selection, State.recordBest, if_pos hfound, hprom, hidx]

theorem State.selection_of_noneProminent {s : State} (h : s.NoneProminent) : s.selection = s.setStatus .noPeak := by
  rcases s.selection_cases with ⟨-, heq⟩ | ⟨k, hk, -⟩
  · exact heq
  · exact absurd h hk.not_noneProminent

theorem State.selection_of_selects {s : State} {k : Nat} (h : s.Selects k) :
    s.selection = (s.setBest (s.candAt k) (s.candProm k)).setStatus .ok := by
  rcases s.selection_cases with ⟨hnone, -⟩ | ⟨k', hk', heq⟩
  · exact absurd hnone h.not_noneProminent
  · rw [heq, hk'.unique h]

/-- The STATUS before a selection does not reach its outcome. -/
theorem State.selection_setStatus (s : State) (c : Status) : (s.setStatus c).selection = s.selection := by
  rcases s.selection_cases with ⟨hnone, heq⟩ | ⟨k, hk, heq⟩
  · rw [heq]
    exact State.selection_of_noneProminent (s := s.setStatus c) hnone
  · rw [heq]
    exact State.selection_of_selects (s := s.setStatus c) hk

/-- Two states with the same candidates, prominences and threshold, and the same results before, select alike. -/
theorem State.selection_congr {s s' : State} (hidx : s.bestIdx = s'.bestIdx) (hprom : s.bestProm = s'.bestProm)
    (hmin : s.minProm = s'.minProm) (hcount : s.count = s'.count)
    (hcand : ∀ k, k < s.count → s.candAt k = s'.candAt k) (hcprom : ∀ k, k < s.count → s.candProm k = s'.candProm k) :
    s.selection.status = s'.selection.status ∧ s.selection.bestIdx = s'.selection.bestIdx ∧
      s.selection.bestProm = s'.selection.bestProm := by
  have hbest : s.selectFirst s.count = s'.selectFirst s'.count := by
    rw [← hcount]
    exact s'.selectFirst_congr s s.count hmin hcand hcprom
  rw [State.selection, State.selection, hbest]
  cases hfound : (s'.selectFirst s'.count).found with
  | false =>
    rw [State.recordBest_not_found _ _ hfound, State.recordBest_not_found _ _ hfound]
    exact ⟨rfl, hidx, hprom⟩
  | true =>
    obtain ⟨h1, h2, h3⟩ := s.recordBest_found _ hfound
    obtain ⟨h1', h2', h3'⟩ := s'.recordBest_found _ hfound
    exact ⟨h1.trans h1'.symm, h2.trans h2'.symm, h3.trans h3'.symm⟩

theorem State.selection_length (s : State) : s.selection.length = s.length := s.recordBest_length _

theorem State.selection_capacity (s : State) : s.selection.capacity = s.capacity := s.recordBest_capacity _

/-! ### Frames of selection -/

section SelectionFrames

variable {w : Touches} {s t : State}

theorem Unchanged.setBest (h : Unchanged w s t) (hidx : Csr.bestIdx ∈ w.csrs) (hprom : Csr.bestProm ∈ w.csrs) (i : Half)
    (p : Word) : Unchanged w s (t.setBest i p) := by
  refine h.trans ⟨fun _ _ => rfl, fun csr hcsr => ?_, fun _ _ => rfl, fun _ _ => rfl, fun _ _ => rfl, fun _ => rfl,
    rfl, rfl, rfl⟩
  cases csr with
  | bestIdx => exact absurd hidx hcsr
  | bestProm => exact absurd hprom hcsr
  | _ => rfl

/-- Selection writes STATUS and the two results and nothing else (R144). -/
theorem Unchanged.selection (h : Unchanged w s t) (hstatus : Csr.status ∈ w.csrs) (hidx : Csr.bestIdx ∈ w.csrs)
    (hprom : Csr.bestProm ∈ w.csrs) : Unchanged w s t.selection := by
  rcases t.selection_cases with ⟨-, heq⟩ | ⟨k, -, heq⟩
  · rw [heq]
    exact h.setStatus hstatus _
  · rw [heq]
    exact (h.setBest hidx hprom _ _).setStatus hstatus _

end SelectionFrames

/-- Settles O36: the two outcomes of selection, each from the case that gives it; a lower threshold keeps the second. -/
theorem selectTakesTheFirstOfTheLargest : Obligations.SelectTakesTheFirstOfTheLargest := by
  refine ⟨onlyWord_of_encode_toNat (by decide), fun s => ⟨_, exec_select_selection s,
    ((Unchanged.refl _ s).setBest (by simp) (by simp) 0 0).selection (by simp) (by simp) (by simp),
    fun hnone => ?_, fun k hk hreach hmax hfirst => ?_, fun v hv hok => ?_⟩⟩
  · rw [State.selection_of_noneProminent (s := s.setBest 0 0) hnone]
    exact ⟨rfl, rfl, rfl⟩
  · rw [State.selection_of_selects (s := s.setBest 0 0) ⟨hk, hreach, hmax, hfirst⟩]
    exact ⟨rfl, rfl, rfl⟩
  · rcases (s.setBest 0 0).selection_cases with ⟨-, heq⟩ | ⟨k, hk, heq⟩
    · rw [heq] at hok
      exact absurd hok (by simp [State.csr, Status.code, zext32])
    · have hlower : ((s.setMinProm v).setBest 0 0).Selects k := State.Selects.setMinProm (s := s.setBest 0 0) hv hk
      refine ⟨_, exec_select_selection (s.setMinProm v), ?_⟩
      rw [heq, State.selection_of_selects hlower]
      exact ⟨rfl, rfl, rfl⟩

/-! ### The state `FIND` selects from (R146) -/

/-- The state detection starts from in `FIND`: the results cleared, the signal converted, no candidate yet. -/
def State.prepared (s : State) : State := (s.setBest 0 0).convert.setCandCount 0

theorem State.found_eq_detect (s : State) : s.found = s.prepared.detect := rfl

theorem exec_find_short_prepared (s : State) (h0 : 0 < s.length) (h3 : s.length < 3) (hl : s.length ≤ s.capacity) :
    exec .find s = .next (s.prepared.setStatus .bufferTooSmall) := exec_find_short s h0 h3 hl

theorem State.prepared_setStatus (s : State) (c : Status) : (s.setStatus c).prepared = s.prepared.setStatus c := rfl

theorem State.prepared_sigAt (s : State) (i : Nat) :
    s.prepared.sigAt i = if i < s.length then tofix (s.rawAt i) else s.sigAt i :=
  (s.setBest 0 0).convert_sigAt i

theorem State.prepared_sample (s : State) {i : Nat} (hi : i < s.length) :
    s.prepared.sample i = 65536 * (s.rawAt i).toInt := by
  rw [State.sample, State.prepared_sigAt, if_pos hi, tofix_toInt, mul_comm]

/-- The candidates `FIND` lists are indices of the signal. -/
theorem State.found_candAt_lt (s : State) {k : Nat} (hk : k < s.found.count) : (s.found.candAt k).toNat < s.length := by
  have hmem := List.mem_of_getElem? (s.prepared.detect_candAt k hk)
  obtain ⟨-, hlast, -⟩ := (s.prepared.mem_accepted _).1 hmem
  exact Nat.lt_of_lt_of_le (Nat.lt_add_of_pos_right two_pos) hlast

theorem State.found_candProm_isProminence (s : State) (hl : s.length ≤ s.capacity) {k : Nat} (hk : k < s.found.count) :
    IsProminence s.found.sample s.length (s.found.candAt k).toNat (s.found.candProm k).toInt :=
  s.found.promOrZero_isProminence _ hl (s.found_candAt_lt hk)

theorem Unchanged.prepared {w : Touches} {s : State} (hidx : Csr.bestIdx ∈ w.csrs) (hprom : Csr.bestProm ∈ w.csrs)
    (hcount : Csr.candCount ∈ w.csrs) (hsig : ∀ i, i < s.length → w.sig i) : Unchanged w s s.prepared :=
  (((Unchanged.refl w s).setBest hidx hprom 0 0).convert hsig).setCandCount hcount 0

/-- Settles O37: on an admissible length `FIND` is selection from the accepted indices of the converted signal; a
prominence of R140 is unique, so what selection says of its own prominences it says of any. -/
theorem findSelectsTheMostProminentPeak : Obligations.FindSelectsTheMostProminentPeak := by
  refine ⟨onlyWord_of_encode_toNat (by decide), fun s => ⟨fun h => ?_, fun h0 h3 hl => ?_, fun h3 hl => ?_⟩⟩
  · exact ⟨_, exec_find_invalid s h, rfl, rfl, rfl,
      ((Unchanged.refl _ s).setBest (by simp) (by simp) 0 0).setStatus (by simp) _⟩
  · exact ⟨_, exec_find_short_prepared s h0 h3 hl, rfl, rfl, rfl, rfl, fun i hi => s.prepared_sample hi,
      (Unchanged.prepared (by simp) (by simp) (by simp) fun _ hi => hi).setStatus (by simp) _⟩
  · have hcount := s.prepared.detect_count
    have hcand := s.prepared.detect_candAt
    have hlist := s.prepared.accepted_isCandidateList
    have hframe : Unchanged
        { csrs := [.status, .bestIdx, .bestProm, .candCount], sig := fun i => i < s.length,
          cand := fun k => k < s.found.count } s s.found.selection :=
      ((Unchanged.prepared (by simp) (by simp) (by simp) fun _ hi => hi).detect (by simp) fun _ hk => hk).selection
        (by simp) (by simp) (by simp)
    have hvalue : ∀ {k v}, k < s.found.count → IsProminence s.found.sample s.length (s.found.candAt k).toNat v →
        v = (s.found.candProm k).toInt := fun hk hv => hv.unique (s.found_candProm_isProminence hl hk)
    refine ⟨_, s.prepared.accepted, exec_find_selection s h3 hl, ?_⟩
    rcases s.found.selection_cases with ⟨hnone, heq⟩ | ⟨k, ⟨hk, hreach, hmax, hfirst⟩, heq⟩
    · rw [heq] at hframe ⊢
      refine ⟨fun i hi => s.prepared_sample hi, hlist, hcount, hcand, .inl ⟨rfl, rfl, rfl, fun k v hk hv => ?_⟩, hframe⟩
      rw [hvalue hk hv]
      exact hnone k hk
    · rw [heq] at hframe ⊢
      refine ⟨fun i hi => s.prepared_sample hi, hlist, hcount, hcand,
        .inr ⟨rfl, k, hk, rfl, s.found_candProm_isProminence hl hk, hreach, fun j v hj hv => ?_⟩, hframe⟩
      rw [hvalue hj hv]
      exact ⟨hmax j hj, hfirst j⟩

/-! ### `FIND` against the staged commands, and repeated (R147, R148) -/

/-- On an admissible length `CONV`; `DETECT`; `SELECT` select from the state `FIND` selects from, but for its STATUS. -/
theorem State.staged_eq_found (s : State) :
    (((s.convert.setStatus .ok).setCandCount 0).detect.setStatus .ok).setBest 0 0 = s.found.setStatus .ok := rfl

/-- Settles O38: each length class runs its own paths of the four commands. -/
theorem findAgreesWithTheStagedCommands : Obligations.FindAgreesWithTheStagedCommands := by
  intro s
  by_cases hinvalid : s.length = 0 ∨ s.capacity < s.length
  · have hdetect : ∃ c, exec .detect (s.setStatus .invalidInput) =
        .next (((s.setStatus .invalidInput).setCandCount 0).setStatus c) := by
      by_cases hl : s.capacity < s.length
      · exact ⟨_, exec_detect_too_large hl⟩
      · exact ⟨_, exec_detect_too_small (not_lt.1 hl) (show s.length < 3 by omega)⟩
    obtain ⟨c, hdetect⟩ := hdetect
    exact ⟨_, _, _, _, exec_conv_invalid hinvalid, hdetect, exec_select_selection _, exec_find_invalid s hinvalid,
      by omega, by omega, fun _ => ⟨rfl, rfl⟩⟩
  have h0 : 0 < s.length := by omega
  have hl : s.length ≤ s.capacity := by omega
  by_cases h3 : s.length < 3
  · exact ⟨_, _, _, _, exec_conv s h0 hl, exec_detect_too_small hl h3, exec_select_selection _,
      exec_find_short_prepared s h0 h3 hl, by omega,
      fun _ _ _ => ⟨rfl, rfl, (Unchanged.refl _ _).setStatus (by simp) .bufferTooSmall⟩, fun h => absurd h hinvalid⟩
  · refine ⟨_, _, _, _, exec_conv s h0 hl, exec_detect _ (not_lt.1 h3) hl, exec_select_selection _,
      exec_find_selection s (not_lt.1 h3) hl, fun _ _ => ?_, by omega, fun h => absurd h hinvalid⟩
    rw [State.staged_eq_found, State.selection_setStatus]

/-- Clearing and converting twice is doing it once. -/
theorem State.prepared_prepared (s : State) : s.prepared.prepared = s.prepared := by
  have hconv : (s.prepared.setBest 0 0).convert = s.prepared :=
    State.convert_of_converted _ fun i hi => (convertCells_get? ..).trans (if_pos hi)
  rw [State.prepared, hconv]
  rfl

/-- Preparing and detecting again changes nothing: the samples are converted and the candidates listed already. -/
theorem State.found_found (s : State) : s.found.found = s.found := by
  have hconv : (s.found.setBest 0 0).convert = s.found :=
    State.convert_of_converted _ fun i hi => (convertCells_get? ..).trans (if_pos hi)
  rw [State.found, hconv]
  exact s.prepared.detect_detect

/-- STATUS and the results do not reach the state `FIND` selects from. -/
theorem State.found_of_results (s : State) (i : Half) (p : Word) (c : Status) :
    ((s.setBest i p).setStatus c).found = s.found.setStatus c := rfl

/-- After a selection, `FIND` selects again from the same state, but for its STATUS. -/
theorem State.found_selection (s : State) : ∃ c, s.found.selection.found = s.found.setStatus c := by
  rcases s.found.selection_cases with ⟨-, heq⟩ | ⟨k, -, heq⟩
  · exact ⟨.noPeak, by rw [heq]; exact (s.found.found_of_results 0 0 _).trans (by rw [s.found_found])⟩
  · exact ⟨.ok, by rw [heq, State.found_of_results, s.found_found]⟩

/-- Settles O39: on each path the second `FIND` starts from what the first has already written. -/
theorem findTwiceChangesNothing : Obligations.FindTwiceChangesNothing := by
  intro s t h
  by_cases hinvalid : s.length = 0 ∨ s.capacity < s.length
  · cases (exec_find_invalid s hinvalid).symm.trans h
    exact exec_find_invalid _ hinvalid
  by_cases h3 : s.length < 3
  · cases (exec_find_short_prepared s (by omega) h3 (by omega)).symm.trans h
    rw [exec_find_short_prepared (s.prepared.setStatus .bufferTooSmall) (show 0 < s.length by omega) h3
      (show s.length ≤ s.capacity by omega), State.prepared_setStatus, s.prepared_prepared]
    rfl
  · cases (exec_find_selection s (by omega) (by omega)).symm.trans h
    have hlen : s.found.selection.length = s.length := s.found.selection_length
    have hcap : s.found.selection.capacity = s.capacity := s.found.selection_capacity
    obtain ⟨c, hfound⟩ := s.found_selection
    rw [exec_find_selection _ (by omega) (by omega), hfound, State.selection_setStatus]

/-! ### What reaches the outcome of `FIND` (R17, R148) -/

/-- The guarded prominence depends only on the signal, its length and the capacity. -/
theorem State.promOrZero_congr {s s' : State} (hlen : s.len = s'.len) (hparams : s.params = s'.params)
    (hsig : ∀ i, i < s.length → s.sigAt i = s'.sigAt i) (p : Nat) : s.promOrZero p = s'.promOrZero p := by
  have hL : s.length = s'.length := congrArg BitVec.toNat hlen
  have hcap : s.capacity = s'.capacity := congrArg (fun q => q.maxSignalLength.toNat) hparams
  have hvalid : s.lengthInvalid = s'.lengthInvalid := by rw [State.lengthInvalid, State.lengthInvalid, hL, hcap]
  by_cases hp : s.length ≤ p
  · rw [s.promOrZero_outside p (.inr (.inr hp)), s'.promOrZero_outside p (.inr (.inr (hL ▸ hp)))]
  · rw [State.promOrZero, State.promOrZero, ← hvalid, ← hL, prominence_congr (not_le.1 hp) hsig]

section FindReads

variable {s s' : State}

/-- The converted signal depends only on the samples of the signal. -/
theorem State.prepared_sigAt_congr (hlen : s.len = s'.len) (hraw : ∀ i, i < s.length → s.rawAt i = s'.rawAt i) {i : Nat}
    (hi : i < s.length) : s.prepared.sigAt i = s'.prepared.sigAt i := by
  have hL : s.length = s'.length := congrArg BitVec.toNat hlen
  rw [State.prepared_sigAt, State.prepared_sigAt, if_pos hi, if_pos (hL ▸ hi), hraw i hi]

/-- The candidates `FIND` lists depend only on the samples, L, the detection thresholds and the parameters. -/
theorem State.found_candidates_congr (hlen : s.len = s'.len) (hparams : s.params = s'.params)
    (hmg : s.minGrad = s'.minGrad) (hnf : s.noiseFloor = s'.noiseFloor)
    (hraw : ∀ i, i < s.length → s.rawAt i = s'.rawAt i) (h3 : 3 ≤ s.length) :
    s.found.count = s'.found.count ∧ ∀ k, k < s.found.count → s.found.candAt k = s'.found.candAt k := by
  have hpeaks : s.peakCapacity = s'.peakCapacity := congrArg (fun q => q.maxPeaks.toNat) hparams
  have haccepted : s.prepared.accepted = s'.prepared.accepted :=
    State.accepted_congr hlen hmg hnf (fun _ hi => State.prepared_sigAt_congr hlen hraw hi) h3
  have hcount : s.found.count = s'.found.count := by
    rw [State.found_eq_detect, State.found_eq_detect, State.detect_count, State.detect_count, haccepted]
    exact congrArg _ hpeaks
  refine ⟨hcount, fun k hk => half_eq_of_getElem? (s.prepared.detect_candAt k hk) ?_⟩
  rw [haccepted]
  exact s'.prepared.detect_candAt k (hcount ▸ hk)

end FindReads

/-- Settles O40: the two states take the same path; on the third the converted signals, the candidates and so their
prominences are the same, and selection reads nothing else. -/
theorem findDependsOnlyOnTheSignalAndThresholds : Obligations.FindDependsOnlyOnTheSignalAndThresholds := by
  intro s s' t t' hlen hparams hmin hmg hnf hraw h h'
  have hL : s'.length = s.length := congrArg BitVec.toNat hlen.symm
  have hcap : s'.capacity = s.capacity := congrArg (fun q => q.maxSignalLength.toNat) hparams.symm
  have hsig : ∀ i, i < s.length → s.prepared.sigAt i = s'.prepared.sigAt i := fun _ hi =>
    State.prepared_sigAt_congr hlen hraw hi
  by_cases hinvalid : s.length = 0 ∨ s.capacity < s.length
  · cases (exec_find_invalid s hinvalid).symm.trans h
    cases (exec_find_invalid s' (by omega)).symm.trans h'
    exact ⟨rfl, rfl, rfl, by omega⟩
  by_cases h3 : s.length < 3
  · cases (exec_find_short_prepared s (by omega) h3 (by omega)).symm.trans h
    cases (exec_find_short_prepared s' (by omega) (by omega) (by omega)).symm.trans h'
    exact ⟨rfl, rfl, rfl, fun _ _ => ⟨rfl, hsig, nofun⟩⟩
  · cases (exec_find_selection s (by omega) (by omega)).symm.trans h
    cases (exec_find_selection s' (by omega) (by omega)).symm.trans h'
    obtain ⟨hcount, hcand⟩ := State.found_candidates_congr hlen hparams hmg hnf hraw (not_lt.1 h3)
    have hprom : ∀ k, k < s.found.count → s.found.candProm k = s'.found.candProm k := fun k hk => by
      rw [State.candProm, State.candProm, ← hcand k hk]
      exact State.promOrZero_congr (s := s.found) (s' := s'.found) hlen hparams hsig _
    obtain ⟨hstatus, hidx, hbest⟩ :=
      State.selection_congr (s := s.found) (s' := s'.found) rfl rfl hmin hcount hcand hprom
    refine ⟨hstatus, hidx, hbest, fun _ _ => ?_⟩
    simp only [State.selection, State.recordBest_candCount, State.recordBest_sigAt, State.recordBest_candAt,
      State.recordBest_count]
    exact ⟨BitVec.eq_of_toNat_eq hcount, hsig, hcand⟩

end Sys2Proof.Machine

/-! ## Buffer access (43_buffer_access.md): each command inside its bound, and outside it the one command error they share -/

namespace Sys2Proof.Machine

/-! ### Command errors -/

/-- The converse of the error shape of `exec_effect`: where the rules record an error, the command does nothing else. -/
theorem exec_of_errorCase {i : Instr} {s : State} {code : CmdErr} (h : ErrorCase s i code) :
    exec i s = .next (s.raiseCmdErr code) := by
  cases i with
  | push =>
    obtain ⟨rfl, hfull⟩ := h
    exact if_pos hfull
  | ldraw _ idx | ldsig _ idx | straw idx _ | stsig idx _ =>
    obtain ⟨rfl, hidx⟩ := h
    exact if_neg (mt (s.signalIndexOk_iff idx).1 hidx.not_gt)
  | ldcand _ k =>
    obtain ⟨rfl, hk⟩ := h
    exact if_neg (mt (s.candIndexOk_iff k).1 hk.not_gt)
  | grad rd =>
    obtain ⟨rfl, hbad⟩ := h
    exact exec_grad_bad_index rd hbad
  | csrr =>
    obtain ⟨rfl, hcsr⟩ := h
    simp only [exec, execCsrr, Csr.ofNum_unassigned hcsr]
  | csrw _ rs1 =>
    obtain ⟨rfl, hcsr⟩ := h
    exact exec_csrw_refused s rs1 hcsr
  | _ => exact h.elim

theorem exec_raisesOnly_of_errorCase {i : Instr} {s : State} {code : CmdErr} (h : ErrorCase s i code) :
    ∃ t, exec i s = .next t ∧ RaisesOnly code s t :=
  ⟨_, exec_of_errorCase h, s.raiseCmdErr_raisesOnly code⟩

/-! ### The commands inside their bounds -/

section InBounds

variable {s : State} {idx : Half}

theorem exec_push (imm : Half) (h : s.length < s.capacity) :
    exec (.push imm) s = .next ((s.writeRaw s.length imm).setLen (s.len + 1)) :=
  if_neg h.not_ge

theorem exec_ldraw (rd : Reg) (h : idx.toNat < s.capacity) :
    exec (.ldraw rd idx) s = .next (s.setReg rd (sext32 (s.rawAt idx.toNat))) :=
  if_pos ((s.signalIndexOk_iff idx).2 h)

theorem exec_straw (rs1 : Reg) (h : idx.toNat < s.capacity) :
    exec (.straw idx rs1) s = .next (s.writeRaw idx.toNat (lowHalf (s.reg rs1))) :=
  if_pos ((s.signalIndexOk_iff idx).2 h)

theorem exec_ldsig (rd : Reg) (h : idx.toNat < s.capacity) :
    exec (.ldsig rd idx) s = .next (s.setReg rd (s.sigAt idx.toNat)) :=
  if_pos ((s.signalIndexOk_iff idx).2 h)

theorem exec_stsig (rs1 : Reg) (h : idx.toNat < s.capacity) :
    exec (.stsig idx rs1) s = .next (s.writeSig idx.toNat (s.reg rs1)) :=
  if_pos ((s.signalIndexOk_iff idx).2 h)

theorem exec_ldcand (rd : Reg) (h : idx.toNat < s.peakCapacity) :
    exec (.ldcand rd idx) s = .next (s.setReg rd (zext32 (s.candAt idx.toNat))) :=
  if_pos ((s.candIndexOk_iff idx).2 h)

end InBounds

/-! ### Cells and LEN -/

theorem State.writeRaw_rawAt_self (s : State) (i : Nat) (v : Half) : (s.writeRaw i v).rawAt i = v := by
  rw [State.writeRaw_rawAt, if_pos rfl]

theorem State.writeSig_sigAt_self (s : State) (i : Nat) (v : Word) : (s.writeSig i v).sigAt i = v := by
  rw [State.writeSig_sigAt, if_pos rfl]

/-- A buffer with room has a length below the capacity, a 16-bit number, so LEN + 1 does not wrap. -/
theorem State.len_add_one_toNat {s : State} (h : s.length < s.capacity) : (s.len + 1).toNat = s.length + 1 := by
  have hcap : s.capacity < 65536 := s.params.maxSignalLength.isLt
  rw [BitVec.toNat_add]
  exact Nat.mod_eq_of_lt (show s.length + 1 < 65536 by omega)

section Frames

variable {w : Touches} {s t : State}

theorem Unchanged.setLen (h : Unchanged w s t) (hw : Csr.len ∈ w.csrs) (v : Half) : Unchanged w s (t.setLen v) := by
  refine h.trans ⟨fun _ _ => rfl, fun csr hcsr => ?_, fun _ _ => rfl, fun _ _ => rfl, fun _ _ => rfl, fun _ => rfl,
    rfl, rfl, rfl⟩
  cases csr with
  | len => exact absurd hw hcsr
  | _ => rfl

theorem Unchanged.writeRaw (h : Unchanged w s t) {i : Nat} (hw : w.raw i) (v : Half) :
    Unchanged w s (t.writeRaw i v) := by
  obtain ⟨-, hcsrs, hraw, -⟩ := t.writeRaw_unchanged i v
  exact h.trans ⟨fun _ _ => rfl, fun csr _ => hcsrs csr List.not_mem_nil, fun j hj => hraw j fun hji => hj (hji ▸ hw),
    fun _ _ => rfl, fun _ _ => rfl, fun _ => rfl, rfl, rfl, rfl⟩

end Frames

/-! ### The obligations -/

/-- Settles O22: the sample goes to the cell at LEN, and a buffer with room has a length that can still grow by 1. -/
theorem pushAppendsTheSample : Obligations.PushAppendsTheSample := by
  refine fun imm => ⟨onlyWord_of_encode_toNat (by simp [encode_toNat, Instr.fields, Opcode.bits]), fun s =>
    ⟨fun h => ?_, fun h => exec_raisesOnly_of_errorCase ⟨rfl, h⟩⟩⟩
  exact ⟨_, exec_push imm h, s.writeRaw_rawAt_self s.length imm, State.len_add_one_toNat h,
    ((Unchanged.refl _ s).writeRaw rfl imm).setLen (by simp) _⟩

/-- Settles O23: sign extension keeps the signed value of the sample. -/
theorem ldrawReadsTheSampleSignExtended : Obligations.LdrawReadsTheSampleSignExtended :=
  fun rd idx => ⟨onlyWord_of_encode_toNat (by simp [encode_toNat, Instr.fields, Opcode.bits]), fun s =>
    ⟨fun h => exec_result_of_setReg (exec_ldraw rd h) (sext32_toInt (s.rawAt idx.toNat)),
      fun h => exec_raisesOnly_of_errorCase ⟨rfl, h⟩⟩⟩

/-- Settles O24: the cell reads back as the low half, the register's remainder by 2^16. -/
theorem strawStoresTheLowHalf : Obligations.StrawStoresTheLowHalf := by
  refine fun idx rs1 => ⟨onlyWord_of_encode_toNat (by simp [encode_toNat, Instr.fields, Opcode.bits]), fun s =>
    ⟨fun h => ⟨_, exec_straw rs1 h, ?_, s.writeRaw_unchanged idx.toNat _⟩,
      fun h => exec_raisesOnly_of_errorCase ⟨rfl, h⟩⟩⟩
  rw [State.writeRaw_rawAt_self, lowHalf_toNat]

/-- Settles O25: `rd` takes the cell whole. -/
theorem ldsigReadsTheSignalCell : Obligations.LdsigReadsTheSignalCell :=
  fun rd idx => ⟨onlyWord_of_encode_toNat (by simp [encode_toNat, Instr.fields, Opcode.bits]), fun _ =>
    ⟨fun h => exec_result_of_setReg (f := id) (exec_ldsig rd h) rfl,
      fun h => exec_raisesOnly_of_errorCase ⟨rfl, h⟩⟩⟩

/-- Settles O26: the cell takes `rs1` whole, and every other cell reads as before the write. -/
theorem stsigStoresTheSignalCell : Obligations.StsigStoresTheSignalCell :=
  fun idx rs1 => ⟨onlyWord_of_encode_toNat (by simp [encode_toNat, Instr.fields, Opcode.bits]), fun s =>
    ⟨fun h => ⟨_, exec_stsig rs1 h, s.writeSig_sigAt_self idx.toNat _, s.writeSig_unchanged idx.toNat _⟩,
      fun h => exec_raisesOnly_of_errorCase ⟨rfl, h⟩⟩⟩

/-- Settles O27: zero extension keeps the unsigned value of the candidate. -/
theorem ldcandReadsTheCandidateZeroExtended : Obligations.LdcandReadsTheCandidateZeroExtended :=
  fun rd k => ⟨onlyWord_of_encode_toNat (by simp [encode_toNat, Instr.fields, Opcode.bits]), fun s =>
    ⟨fun h => exec_result_of_setReg (exec_ldcand rd h) (zext32_toNat (s.candAt k.toNat) (by decide)),
      fun h => exec_raisesOnly_of_errorCase ⟨rfl, h⟩⟩⟩

end Sys2Proof.Machine

/-! ## System commands (44_system.md): CSR numbers and the CSRs they name, the frames of the writable CSRs and of `OUTQ`, and
the five commands -/

namespace Sys2Proof.Machine

/-! ### CSR access by number -/

theorem Csr.num_injective : Function.Injective Csr.num := fun c d h =>
  Option.some.inj (by rw [← Csr.ofNum_num c, h, Csr.ofNum_num d])

theorem exec_csrr_num (rd : Reg) (c : Csr) (s : State) :
    exec (.csrr rd c.num) s = .next (s.setReg rd (s.csr c)) := by
  simp only [exec, execCsrr, Csr.ofNum_num]

theorem exec_csrw_num {c : Csr} {rs1 : Reg} {s t : State} (h : s.writeCsr c (s.reg rs1) = some t) :
    exec (.csrw c.num rs1) s = .next t := by
  simp only [exec, execCsrw, Csr.ofNum_num, Option.bind_some, h]

/-! ### Frames -/

/-- One frame serves the three single writes of `CSRW` and the joint write of `CFGDEF`: a threshold `w` does not list keeps
its value. -/
theorem State.thresholds_unchanged {w : Touches} (s : State) {p g n : Word} (hp : .minProm ∉ w.csrs → p = s.minProm)
    (hg : .minGrad ∉ w.csrs → g = s.minGrad) (hn : .noiseFloor ∉ w.csrs → n = s.noiseFloor) :
    Unchanged w s { s with minProm := p, minGrad := g, noiseFloor := n } :=
  ⟨fun _ _ => rfl, State.csr_congr (fun _ => rfl) hp hg hn (fun _ => rfl) (fun _ => rfl) (fun _ => rfl) (fun _ => rfl)
    (fun _ => rfl) rfl, fun _ _ => rfl, fun _ _ => rfl, fun _ _ => rfl, fun _ => rfl, rfl, rfl, rfl⟩

theorem State.sendOut_unchanged (s : State) (v : Word) : Unchanged { outq := true } s (s.sendOut v) := by
  refine ⟨fun _ _ => rfl, fun c _ => ?_, fun _ _ => rfl, fun _ _ => rfl, fun _ _ => rfl, nofun, rfl, rfl, rfl⟩
  cases c <;> rfl

/-! ### The obligations -/

/-- Settles O42: a number up to 0x0009 is the number of one CSR, and zero extension keeps the value that CSR holds. -/
theorem csrrReadsTheCsrZeroExtended : Obligations.CsrrReadsTheCsrZeroExtended := by
  refine fun rd csr => ⟨onlyWord_of_encode_toNat (by simp [encode_toNat, Instr.fields, Opcode.bits]), fun s =>
    ⟨fun h => ?_, fun h => exec_raisesOnly_of_errorCase ⟨rfl, h⟩⟩⟩
  obtain ⟨c, hc⟩ := Csr.ofNum_assigned h
  obtain rfl := Csr.num_of_ofNum hc
  have hread (d : Csr) (hd : c.num = d.num) : (s.setReg rd (s.csr c)).reg rd = s.csr d := by
    rw [State.setReg_reg_self, Csr.num_injective hd]
  refine ⟨_, exec_csrr_num rd c s, s.setReg_unchanged rd _, fun hlen => ?_, hread .minProm, hread .minGrad,
    hread .noiseFloor, fun hstatus => ?_, fun hidx => ?_, hread .bestProm, fun hcount => ?_, fun herr => ?_,
    fun hcaps => ?_⟩
  · rw [hread .len hlen]
    exact zext32_toNat s.len (by decide)
  · rw [hread .status hstatus, State.csr]
    cases s.status <;> rfl
  · rw [hread .bestIdx hidx]
    exact zext32_toNat s.bestIdx (by decide)
  · rw [hread .candCount hcount]
    exact zext32_toNat s.candCount (by decide)
  · rw [hread .cmdErr herr, State.csr]
    cases s.cmdErr <;> rfl
  · rw [hread .caps hcaps]
    exact s.csr_caps_toNat

/-- Settles O43: each writable number stores `rs1` in its own CSR, LEN only the remainder by 2^16. -/
theorem csrwWritesTheWritableCsr : Obligations.CsrwWritesTheWritableCsr := by
  refine fun csr rs1 => ⟨onlyWord_of_encode_toNat (by simp [encode_toNat, Instr.fields, Opcode.bits]), fun s =>
    ⟨?_, ?_, ?_, ?_, fun h => exec_raisesOnly_of_errorCase ⟨rfl, h⟩⟩⟩
  · rintro rfl
    exact ⟨_, exec_csrw_num (c := .len) rfl, lowHalf_toNat (s.reg rs1), (Unchanged.refl _ s).setLen (by simp) _⟩
  · rintro rfl
    exact ⟨s.setMinProm (s.reg rs1), exec_csrw_num (c := .minProm) rfl, rfl,
      s.thresholds_unchanged (by simp) (fun _ => rfl) fun _ => rfl⟩
  · rintro rfl
    exact ⟨s.setMinGrad (s.reg rs1), exec_csrw_num (c := .minGrad) rfl, rfl,
      s.thresholds_unchanged (fun _ => rfl) (by simp) fun _ => rfl⟩
  · rintro rfl
    exact ⟨s.setNoiseFloor (s.reg rs1), exec_csrw_num (c := .noiseFloor) rfl, rfl,
      s.thresholds_unchanged (fun _ => rfl) (fun _ => rfl) (by simp)⟩

/-- Settles O44: the three constants of R188 are the model's defaults. -/
theorem cfgdefRestoresTheDefaultThresholds : Obligations.CfgdefRestoresTheDefaultThresholds :=
  ⟨onlyWord_of_encode_toNat (by decide), fun s => ⟨s.setDefaultThresholds, rfl, rfl, rfl, rfl,
    s.thresholds_unchanged (by simp) (by simp) (by simp)⟩⟩

/-- Settles O45: the word joins the end of the queue as it stands. -/
theorem outAppendsTheRegister : Obligations.OutAppendsTheRegister :=
  fun rs1 => ⟨onlyWord_of_encode_toNat (by simp [encode_toNat, Instr.fields, Opcode.bits]), fun s =>
    ⟨_, rfl, s.sendOut_outq (s.reg rs1), s.sendOut_unchanged _⟩⟩

/-- Settles O41: every field of the word is zero, and the next state is the state itself. -/
theorem nopChangesNothing : Obligations.NopChangesNothing :=
  ⟨onlyWord_of_encode_toNat (by decide), fun _ => rfl⟩

end Sys2Proof.Machine

/-! ## Exceptions (60_exceptions.md): the conditions of R208 and R209 are exactly where `CMDERR` takes a code -/

namespace Sys2Proof.Machine

/-- R208 and R209 raise no codes but BAD_INDEX and BAD_CSR; the other two are the decoder's (R206, R207). -/
theorem ErrorCase.badIndex_or_badCsr {s : State} {i : Instr} {code : CmdErr} (h : ErrorCase s i code) :
    code = .badIndex ∨ code = .badCsr := by
  cases i with
  | push | ldraw | straw | ldsig | stsig | ldcand | grad => exact .inl h.1
  | csrr | csrw => exact .inr h.1
  | _ => exact h.elim

/-- Only the error shape of a command's effect writes `CMDERR`. -/
theorem Effect.cmdErr_eq_none_or_errorCase {i : Instr} {s t : State} (h : Effect i s t) (hs : s.cmdErr = .none) :
    t.cmdErr = .none ∨ ErrorCase s i t.cmdErr := by
  cases h with
  | error code hcase => exact .inr (by rwa [State.raiseCmdErr_cmdErr, if_pos hs])
  | _ => exact .inl (by simpa using hs)

/-- With no error recorded before, a command leaves an error code exactly in that code's cases. -/
theorem exec_cmdErr_eq_iff_errorCase {i : Instr} {s t : State} {code : CmdErr} (hcode : code ≠ .none)
    (hs : s.cmdErr = .none) (h : exec i s = .next t) : t.cmdErr = code ↔ ErrorCase s i code := by
  refine ⟨?_, fun hcase => ?_⟩
  · rintro rfl
    exact ((exec_cases h).cmdErr_eq_none_or_errorCase hs).resolve_left hcode
  · cases (exec_of_errorCase hcase).symm.trans h
    rw [State.raiseCmdErr_cmdErr, if_pos hs]

/-- Settles O46: a code is recorded exactly in its cases, which are command by command the lists of R208 and R209. -/
theorem commandErrorsArriveExactlyWhereListed : Obligations.CommandErrorsArriveExactlyWhereListed := by
  refine fun i s t hs h => ⟨(exec_cmdErr_eq_iff_errorCase (code := .badIndex) nofun hs h).trans ?badIndex,
    (exec_cmdErr_eq_iff_errorCase (code := .badCsr) nofun hs h).trans ?badCsr,
    ((exec_cases h).cmdErr_eq_none_or_errorCase hs).imp_right ErrorCase.badIndex_or_badCsr⟩
  case badIndex =>
    cases i with
    | push | ldraw | straw | ldsig | stsig | ldcand | grad => exact and_iff_right rfl
    | csrr | csrw => exact iff_false_intro fun ⟨hcode, _⟩ => nomatch hcode
    | _ => exact Iff.rfl
  case badCsr =>
    cases i with
    | csrr | csrw => exact and_iff_right rfl
    | push | ldraw | straw | ldsig | stsig | ldcand | grad => exact iff_false_intro fun ⟨hcode, _⟩ => nomatch hcode
    | _ => exact Iff.rfl

end Sys2Proof.Machine

/-! ## Reset (70_reset_and_hazards.md): what the reset input leaves depends on the state before it only through the parameters,
the count of resets and the inputs that wait -/

namespace Sys2Proof.Machine

/-! ### The cells after reset -/

@[simp] theorem State.applyReset_rawAt (s : State) (i : Nat) :
    s.applyReset.rawAt i = Config.unwrittenRaw (s.resets + 1) i := rfl

@[simp] theorem State.applyReset_sigAt (s : State) (i : Nat) :
    s.applyReset.sigAt i = Config.unwrittenSig (s.resets + 1) i := rfl

@[simp] theorem State.applyReset_candAt (s : State) (i : Nat) :
    s.applyReset.candAt i = Config.unwrittenCand (s.resets + 1) i := rfl

/-! ### A command word before reset -/

/-- `applyReset` reads no other fields than these three. -/
theorem State.applyReset_congr {s t : State} (hparams : t.params = s.params) (hport : t.port = s.port)
    (hresets : t.resets = s.resets) : t.applyReset = s.applyReset := by
  simp only [State.applyReset, hparams, hport, hresets]

/-- A step that takes a command word, whether it decodes or not, leaves all that outlives a reset. -/
theorem step_of_command_keeps {s t : State} {w : Word} {rest : List HostInput} (hp : s.port = .command w :: rest)
    (h : step s = .next t) : t.params = s.params ∧ t.port = rest ∧ t.resets = s.resets := by
  cases hd : decode w with
  | ok i => exact (exec_cases ((step_of_decode_ok hp hd).symm.trans h)).keeps
  | error e =>
    cases (step_of_decode_error hp hd).symm.trans h
    simp

/-! ### The obligations -/

/-- Settles O12: reset empties the three spaces and counts itself, so each cell reads its free value of the new reset. -/
theorem resetForgetsEveryCell : Obligations.ResetForgetsEveryCell :=
  fun s rest hp => ⟨_, step_of_reset hp, rfl, fun i => ⟨(s.withPort rest).applyReset_rawAt i,
    (s.withPort rest).applyReset_sigAt i, (s.withPort rest).applyReset_candAt i⟩⟩

/-- Settles O13: the command leaves the parameters and the count of resets, and reset reads nothing else it could change. -/
theorem resetAbandonsTheCommandBeforeIt : Obligations.ResetAbandonsTheCommandBeforeIt := by
  intro s t w rest h
  obtain ⟨hparams, hport, hresets⟩ := step_of_command_keeps rfl h
  rw [step_of_reset hport, step_of_reset (s.withPort_port (.reset :: rest))]
  exact congrArg Host.Outcome.next (State.applyReset_congr hparams rfl hresets)

end Sys2Proof.Machine
